-- ==== Sys2Proof/Word.lean ====
section
/-! DEFINITION. The word types of LC-3 CORE and their plainest parts (00_scope.md R5, R8, R9). -/

namespace Sys2Proof

/-- A Word: "an unsigned 16-bit integer; all arithmetic on it is twos-complement and wraps modulo
65536" (R9). `+`, `&&&` and `~~~` on it are R9's `+`, `&` and `~`. -/
abbrev Word := BitVec 16

/-- A console character: 8 bits (R5). -/
abbrev Byte := BitVec 8

/-- A register field: 3 bits, an unsigned index naming R0 to R7 (R94). -/
abbrev RegId := BitVec 3

end Sys2Proof
end

