-- ==== Sys2Proof/Syntax.lean ====
section
/-! DEFINITION. The instructions of LC-3 CORE: one constructor per row of spec/opcode_table.json. -/

namespace Sys2Proof

/-- An instruction as the decoder reads it (30_encoding.md R100). Fields hold the bits of the word;
they are extended where they are used (R95). Bits that no rule reads (R97) have no field. -/
inductive Instr where
  /-- BR, conditional branch (R83, R120). -/
  | br (n z p : Bool) (off : BitVec 9)
  /-- ADD, register form (R84, R140). -/
  | addReg (dr sr1 sr2 : RegId)
  /-- ADD, immediate form (R85, R141). -/
  | addImm (dr sr1 : RegId) (imm : BitVec 5)
  /-- LD, load PC-relative (R87, R160). -/
  | ld (dr : RegId) (off : BitVec 9)
  /-- ST, store PC-relative (R87, R164). -/
  | st (sr : RegId) (off : BitVec 9)
  /-- JSR, jump to subroutine, PC-relative (R89, R123). -/
  | jsr (off : BitVec 11)
  /-- JSRR, jump to subroutine through a register (R90, R124). -/
  | jsrr (baseR : RegId)
  /-- AND, register form (R84, R142). -/
  | andReg (dr sr1 sr2 : RegId)
  /-- AND, immediate form (R85, R143). -/
  | andImm (dr sr1 : RegId) (imm : BitVec 5)
  /-- LDR, load base+offset (R88, R162). -/
  | ldr (dr baseR : RegId) (off : BitVec 6)
  /-- STR, store base+offset (R88, R166). -/
  | str (sr baseR : RegId) (off : BitVec 6)
  /-- RTI, unsupported: a fatal decode error (R93, R180). -/
  | rti
  /-- NOT, bitwise complement (R86, R144). -/
  | not (dr sr : RegId)
  /-- LDI, load indirect (R87, R161). -/
  | ldi (dr : RegId) (off : BitVec 9)
  /-- STI, store indirect (R87, R165). -/
  | sti (sr : RegId) (off : BitVec 9)
  /-- JMP, jump through a register; RET when the register is R7 (R91, R121, R122). -/
  | jmp (baseR : RegId)
  /-- RES, reserved: a fatal decode error (R93, R181). -/
  | res
  /-- LEA, load effective address (R87, R163). -/
  | lea (dr : RegId) (off : BitVec 9)
  /-- TRAP 0x20, GETC (R92, R201). -/
  | trapGetc
  /-- TRAP 0x21, OUT (R92, R202). -/
  | trapOut
  /-- TRAP 0x22, PUTS (R92, R203). -/
  | trapPuts
  /-- TRAP 0x23, IN (R92, R204). -/
  | trapIn
  /-- TRAP 0x24, PUTSP (R92, R205). -/
  | trapPutsp
  /-- TRAP 0x25, HALT (R92, R206). -/
  | trapHalt
  /-- TRAP with any other vector: the fatal decode error BAD_TRAP (R92, R207). -/
  | trapUndefined (vector : Byte)
  deriving DecidableEq, Repr

end Sys2Proof
end

