-- ==== Sys2Proof/Decode.lean ====
section
/-! DEFINITION. The decoder of 30_encoding.md R80 to R101, then the encoder and the opcode table. -/

namespace Sys2Proof

/-- The 16 values of the opcode field (R82). -/
inductive Opcode where
  | br | add | ld | st | jsr | and | ldr | str | rti | not | ldi | sti | jmp | res | lea | trap
  deriving DecidableEq, Repr

/-- The opcode map of R82, the value written bit by bit from bit 15 down. -/
def opcodeOfBits (b : BitVec 4) : Opcode :=
  match b.getLsbD 3, b.getLsbD 2, b.getLsbD 1, b.getLsbD 0 with
  | false, false, false, false => .br
  | false, false, false, true => .add
  | false, false, true, false => .ld
  | false, false, true, true => .st
  | false, true, false, false => .jsr
  | false, true, false, true => .and
  | false, true, true, false => .ldr
  | false, true, true, true => .str
  | true, false, false, false => .rti
  | true, false, false, true => .not
  | true, false, true, false => .ldi
  | true, false, true, true => .sti
  | true, true, false, false => .jmp
  | true, true, false, true => .res
  | true, true, true, false => .lea
  | true, true, true, true => .trap

/-- The opcode field, bits 15:12 (R81). -/
def opcodeField (w : Word) : BitVec 4 := w.extractLsb' 12 4

/-- DR of a result, SR of a store: bits 11:9 (R84 to R88). -/
def regField11 (w : Word) : RegId := w.extractLsb' 9 3

/-- SR1, SR of NOT, BaseR: bits 8:6 (R84 to R86, R88, R90, R91). -/
def regField8 (w : Word) : RegId := w.extractLsb' 6 3

/-- SR2: bits 2:0 (R84). -/
def regField2 (w : Word) : RegId := w.extractLsb' 0 3

/-- imm5: bits 4:0 (R85, R95). -/
def immField5 (w : Word) : BitVec 5 := w.extractLsb' 0 5

/-- offset6: bits 5:0 (R88, R95). -/
def offField6 (w : Word) : BitVec 6 := w.extractLsb' 0 6

/-- PCoffset9: bits 8:0 (R83, R87, R95). -/
def offField9 (w : Word) : BitVec 9 := w.extractLsb' 0 9

/-- PCoffset11: bits 10:0 (R89, R95). -/
def offField11 (w : Word) : BitVec 11 := w.extractLsb' 0 11

/-- trapvect8: bits 7:0 (R92, R95). -/
def vectField8 (w : Word) : Byte := w.extractLsb' 0 8

/-- The TRAP sub-dispatch on the vector (R100, R200). -/
def decodeTrap (v : Byte) : Instr :=
  if v = 0x20#8 then .trapGetc
  else if v = 0x21#8 then .trapOut
  else if v = 0x22#8 then .trapPuts
  else if v = 0x23#8 then .trapIn
  else if v = 0x24#8 then .trapPutsp
  else if v = 0x25#8 then .trapHalt
  else .trapUndefined v

/-- R100's `decode`: total, and a function of the word alone (R81). The mode bits are bit 5 of ADD and
AND and bit 11 of JSR/JSRR (R96). -/
def decodeWord (w : Word) : Instr :=
  match opcodeOfBits (opcodeField w) with
  | .br => .br (w.getLsbD 11) (w.getLsbD 10) (w.getLsbD 9) (offField9 w)
  | .add =>
    if w.getLsbD 5 then .addImm (regField11 w) (regField8 w) (immField5 w)
    else .addReg (regField11 w) (regField8 w) (regField2 w)
  | .ld => .ld (regField11 w) (offField9 w)
  | .st => .st (regField11 w) (offField9 w)
  | .jsr => if w.getLsbD 11 then .jsr (offField11 w) else .jsrr (regField8 w)
  | .and =>
    if w.getLsbD 5 then .andImm (regField11 w) (regField8 w) (immField5 w)
    else .andReg (regField11 w) (regField8 w) (regField2 w)
  | .ldr => .ldr (regField11 w) (regField8 w) (offField6 w)
  | .str => .str (regField11 w) (regField8 w) (offField6 w)
  | .rti => .rti
  | .not => .not (regField11 w) (regField8 w)
  | .ldi => .ldi (regField11 w) (offField9 w)
  | .sti => .sti (regField11 w) (offField9 w)
  | .jmp => .jmp (regField8 w)
  | .res => .res
  | .lea => .lea (regField11 w) (offField9 w)
  | .trap => decodeTrap (vectField8 w)

/-- Why a sequence of words holds no instruction: every word decodes (R100), so only an empty one. -/
inductive DecodeRejection where
  /-- No word is left; raised by `decodeWords` alone (the core always fetches a word), safe. -/
  | noWord
  deriving DecidableEq, Repr

/-- The decoder over a sequence of words: the instruction and the words after it. Every instruction is
one word (R80). -/
def decodeWords : List Word → Except DecodeRejection (Instr × List Word)
  | [] => .error .noWord
  | w :: rest => .ok (decodeWord w, rest)

/-- The words of an instruction whose bits are `w` in the numbering of spec/opcode_table.json: bit 0 is
the least significant bit of the first word, and a later word's bits count on from it. -/
def tableWords (nbits w : Nat) : List Word :=
  (List.range ((nbits + 15) / 16)).map fun k => BitVec.ofNat 16 (w / 65536 ^ k)

/-- What the decoder reads from an instruction of `nbits` bits whose bits are `w`; none where words
are missing or left over, since every instruction is one word (R80). -/
def decodeTableWord (nbits w : Nat) : Option Instr :=
  match decodeWords (tableWords nbits w) with
  | .ok (i, []) => some i
  | .ok (_, _ :: _) => none
  | .error .noWord => none

/-- The branch condition field of BR, `instr[11:9]`: n, z, p from bit 11 down (R83). -/
def condField (n z p : Bool) : BitVec 3 := BitVec.ofBool n ++ BitVec.ofBool z ++ BitVec.ofBool p

/-- The TRAP format with its ignored bits 11:8 zero (R92). -/
def trapWord (v : Byte) : Word := 0xF#4 ++ 0#4 ++ v

/-- The word of an instruction, written from the formats R83 to R93 with every ignored bit zero
(R97; log 15). -/
def encode : Instr → Word
  | .br n z p off => 0x0#4 ++ condField n z p ++ off
  | .addReg dr sr1 sr2 => 0x1#4 ++ dr ++ sr1 ++ 0b000#3 ++ sr2
  | .addImm dr sr1 imm => 0x1#4 ++ dr ++ sr1 ++ 0b1#1 ++ imm
  | .ld dr off => 0x2#4 ++ dr ++ off
  | .st sr off => 0x3#4 ++ sr ++ off
  | .jsr off => 0x4#4 ++ 0b1#1 ++ off
  | .jsrr baseR => 0x4#4 ++ 0b000#3 ++ baseR ++ 0#6
  | .andReg dr sr1 sr2 => 0x5#4 ++ dr ++ sr1 ++ 0b000#3 ++ sr2
  | .andImm dr sr1 imm => 0x5#4 ++ dr ++ sr1 ++ 0b1#1 ++ imm
  | .ldr dr baseR off => 0x6#4 ++ dr ++ baseR ++ off
  | .str sr baseR off => 0x7#4 ++ sr ++ baseR ++ off
  | .rti => 0x8#4 ++ 0#12
  | .not dr sr => 0x9#4 ++ dr ++ sr ++ 0#6
  | .ldi dr off => 0xA#4 ++ dr ++ off
  | .sti sr off => 0xB#4 ++ sr ++ off
  | .jmp baseR => 0xC#4 ++ 0b000#3 ++ baseR ++ 0#6
  | .res => 0xD#4 ++ 0#12
  | .lea dr off => 0xE#4 ++ dr ++ off
  | .trapGetc => trapWord 0x20#8
  | .trapOut => trapWord 0x21#8
  | .trapPuts => trapWord 0x22#8
  | .trapIn => trapWord 0x23#8
  | .trapPutsp => trapWord 0x24#8
  | .trapHalt => trapWord 0x25#8
  | .trapUndefined v => trapWord v

/-- One row of spec/opcode_table.json: a word is of the row when its bits under `mask` are `pattern`. -/
structure OpcodeRow where
  mnemonic : String
  mask : Word
  pattern : Word
  deriving DecidableEq, Repr

/-- The 25 rows of spec/opcode_table.json, in its order. -/
def opcodeTable : List OpcodeRow :=
  [⟨"BR", 0xF000, 0x0000⟩, ⟨"ADD", 0xF020, 0x1000⟩, ⟨"ADD", 0xF020, 0x1020⟩,
   ⟨"LD", 0xF000, 0x2000⟩, ⟨"ST", 0xF000, 0x3000⟩, ⟨"JSR", 0xF800, 0x4800⟩,
   ⟨"JSRR", 0xF800, 0x4000⟩, ⟨"AND", 0xF020, 0x5000⟩, ⟨"AND", 0xF020, 0x5020⟩,
   ⟨"LDR", 0xF000, 0x6000⟩, ⟨"STR", 0xF000, 0x7000⟩, ⟨"RTI", 0xF000, 0x8000⟩,
   ⟨"NOT", 0xF000, 0x9000⟩]
  ++ [⟨"LDI", 0xF000, 0xA000⟩, ⟨"STI", 0xF000, 0xB000⟩, ⟨"JMP", 0xF000, 0xC000⟩,
   ⟨"RES", 0xF000, 0xD000⟩, ⟨"LEA", 0xF000, 0xE000⟩, ⟨"TRAP_GETC", 0xF0FF, 0xF020⟩,
   ⟨"TRAP_OUT", 0xF0FF, 0xF021⟩, ⟨"TRAP_PUTS", 0xF0FF, 0xF022⟩, ⟨"TRAP_IN", 0xF0FF, 0xF023⟩,
   ⟨"TRAP_PUTSP", 0xF0FF, 0xF024⟩, ⟨"TRAP_HALT", 0xF0FF, 0xF025⟩,
   ⟨"TRAP__undefined_vector", 0xF000, 0xF000⟩]

/-- The place in `opcodeTable` of an instruction's row. -/
def tableIndex : Instr → Nat
  | .br _ _ _ _ => 0
  | .addReg _ _ _ => 1
  | .addImm _ _ _ => 2
  | .ld _ _ => 3
  | .st _ _ => 4
  | .jsr _ => 5
  | .jsrr _ => 6
  | .andReg _ _ _ => 7
  | .andImm _ _ _ => 8
  | .ldr _ _ _ => 9
  | .str _ _ _ => 10
  | .rti => 11
  | .not _ _ => 12
  | .ldi _ _ => 13
  | .sti _ _ => 14
  | .jmp _ => 15
  | .res => 16
  | .lea _ _ => 17
  | .trapGetc => 18
  | .trapOut => 19
  | .trapPuts => 20
  | .trapIn => 21
  | .trapPutsp => 22
  | .trapHalt => 23
  | .trapUndefined _ => 24

/-- `w` is a word of row `k`: its bits match, and for the row of undefined vectors its vector is none of
the six (the row's note in spec/opcode_table.json; R98). -/
def rowCovers (k : Nat) (w : Word) : Bool :=
  match opcodeTable[k]? with
  | some r => (w &&& r.mask == r.pattern) && (k != 24 || !definedVector (vectField8 w))
  | none => false

/-- The bits of a word that its instruction reads: the opcode, the mode bit, and the fields (R83 to R93);
the other bits are those R97 marks x. -/
def readMask : Instr → Word
  | .br _ _ _ _ => 0xFFFF
  | .addReg _ _ _ => 0xFFE7
  | .addImm _ _ _ => 0xFFFF
  | .ld _ _ => 0xFFFF
  | .st _ _ => 0xFFFF
  | .jsr _ => 0xFFFF
  | .jsrr _ => 0xF9C0
  | .andReg _ _ _ => 0xFFE7
  | .andImm _ _ _ => 0xFFFF
  | .ldr _ _ _ => 0xFFFF
  | .str _ _ _ => 0xFFFF
  | .rti => 0xF000
  | .not _ _ => 0xFFC0
  | .ldi _ _ => 0xFFFF
  | .sti _ _ => 0xFFFF
  | .jmp _ => 0xF1C0
  | .res => 0xF000
  | .lea _ _ => 0xFFFF
  | .trapGetc => 0xF0FF
  | .trapOut => 0xF0FF
  | .trapPuts => 0xF0FF
  | .trapIn => 0xF0FF
  | .trapPutsp => 0xF0FF
  | .trapHalt => 0xF0FF
  | .trapUndefined _ => 0xF0FF

end Sys2Proof
end

