-- ==== Sys2Proof/Config.lean ====
section
/-! DEFINITION. What an implementation of LC-3 CORE fixes: the parameters of 00_scope.md R6. -/

namespace Sys2Proof

/-- The two readings of PUTSP's end condition, `PUTSP_TERM` (R6, R205; 90_conflicts.md C3). -/
inductive PutspTerm where
  /-- Stop at a zero word; the low byte is always written, the high byte if it is not zero. -/
  | zeroWord
  /-- Stop at the first zero byte. -/
  | zeroByte
  deriving DecidableEq, Repr

/-- The parameters of R6 that instructions read. A state carries them (log 6), so a statement about
every state holds for every value of them. -/
structure Params where
  /-- `IN_PROMPT`, written by the IN routine (R204). -/
  inPrompt : List Byte
  /-- `HALT_NOTICE`, written by the HALT routine (R206). -/
  haltNotice : List Byte
  /-- `PUTSP_TERM`, read by the PUTSP routine (R205). -/
  putspTerm : PutspTerm
  deriving DecidableEq, Repr

/-- `ABORT_STATUS`, the exit status of the external abort: OPEN in the spec (R6; 92_eei_decisions.md
D15), so it has no body and nothing can be proved of its value (log 8). -/
opaque Config.abortStatus : Int

end Sys2Proof
end

