-- ==== Sys2Proof/Machine/Flags.lean ====
section
/-! DEFINITION. The condition flags: the values of COND and the flag computations (10_state.md R26 to
R30, 40_control.md R120). -/

namespace Sys2Proof.Machine

/-- NEG = 0b100; its bit is the n of a branch (R26). -/
def condNeg : BitVec 3 := 0b100#3

/-- ZERO = 0b010; its bit is the z of a branch (R26). -/
def condZero : BitVec 3 := 0b010#3

/-- POS = 0b001; its bit is the p of a branch (R26). -/
def condPos : BitVec 3 := 0b001#3

/-- The three values COND holds: "exactly one of POS/ZERO/NEG set at all times" (R26). -/
def condLegal (c : BitVec 3) : Bool := c == condNeg || c == condZero || c == condPos

/-- The flag `setcc` selects for the value just written: a function of that value alone (R27, R146). -/
def condOf (v : Word) : BitVec 3 :=
  if v = 0x0000#16 then condZero else if v.getLsbD 15 then condNeg else condPos

/-- The branch test of R120: `(instr[11:9] & cond) != 0b000`. -/
def branchTaken (field cond : BitVec 3) : Bool := field &&& cond != 0b000#3

end Sys2Proof.Machine
end

