-- ==== Sys2Proof/Machine/Memory.lean ====
section
/-! DEFINITION. The memory array of 20_memory.md R50: 65,536 cells of one 16-bit word, as plain data in
one canonical form. -/

namespace Sys2Proof.Machine

/-- One cell: its address and its word. The spec's memory has no byte address and no sub-word cell
(R50, R59), so a cell is a word (log 9). -/
abbrev Cell := Nat × Word

/-- The cells that differ from what an unlisted address reads as, addresses strictly rising. -/
abbrev Memory := List Cell

/-- How many cells there are (R5, R50). -/
def memCells : Nat := 65536

/-- What an unlisted address reads as. `INIT_MEM` is open in the spec (R38); zero, the value its R6
names for the reference program, is a DESIGN CHOICE (log 2). -/
def Memory.unlisted (_a : Nat) : Word := 0x0000#16

/-- MEM[a]. -/
def Memory.read : Memory → Nat → Word
  | [], a => Memory.unlisted a
  | (b, w) :: m, a => if a = b then w else Memory.read m a

/-- The entries without those of address `a`. -/
def Memory.erase : Memory → Nat → Memory
  | [], _ => []
  | (b, w) :: m, a => if b = a then Memory.erase m a else (b, w) :: Memory.erase m a

/-- The entry `(a, v)` put before the first entry of a higher address. -/
def Memory.insert : Memory → Nat → Word → Memory
  | [], a, v => [(a, v)]
  | (b, w) :: m, a, v => if a < b then (a, v) :: (b, w) :: m else (b, w) :: Memory.insert m a v

/-- MEM[a] <- v, in canonical form: writing what an unlisted address reads as removes the entry. -/
def Memory.write (m : Memory) (a : Nat) (v : Word) : Memory :=
  if v = Memory.unlisted a then m.erase a else (m.erase a).insert a v

/-- The canonical form of the entries whose addresses are at least `lo`. -/
def Memory.wfFrom : Nat → Memory → Bool
  | _, [] => true
  | lo, (a, v) :: m =>
    decide (lo ≤ a) && decide (a < memCells) && decide (v ≠ Memory.unlisted a)
      && Memory.wfFrom (a + 1) m

/-- The canonical form: addresses strictly rising, all of the 65,536 (R50), and no entry equal to what
an unlisted address reads as. -/
def Memory.wf (m : Memory) : Bool := Memory.wfFrom 0 m

end Sys2Proof.Machine
end

