-- ==== Sys2Proof/Machine/Defaults.lean ====
section
/-! DEFINITION. The values the machine starts with: the defaults of 00_scope.md R6 and the reset values of
10_state.md R35 to R39. -/

namespace Sys2Proof.Machine

/-- `PC_START`, the spec's default 0x3000 (R6, R36; 92_eei_decisions.md D4; log 6). -/
def defaultPcStart : Word := 0x3000#16

/-- `INIT_REGS`: open in the spec (R35); zero, as R6 names for the reference program, is a DESIGN
CHOICE (log 1). -/
def defaultInitRegs : Vector Word 8 := Vector.replicate 8 0x0000#16

/-- COND at reset: ZERO (R37; 92_eei_decisions.md D7). -/
def resetCond : BitVec 3 := condZero

/-- The default `IN_PROMPT`, the 19 characters "Enter a character: " (R6; 92_eei_decisions.md D12;
log 6). -/
def defaultInPrompt : List Byte :=
  [0x45, 0x6E, 0x74, 0x65, 0x72, 0x20, 0x61, 0x20]
  ++ [0x63, 0x68, 0x61, 0x72, 0x61, 0x63, 0x74, 0x65, 0x72, 0x3A, 0x20]

/-- The default `HALT_NOTICE`, "HALT" and a line feed (R6; 92_eei_decisions.md D13; log 6). -/
def defaultHaltNotice : List Byte := [0x48, 0x41, 0x4C, 0x54, 0x0A]

/-- The default `PUTSP_TERM`, ZERO_WORD (R6; 92_eei_decisions.md D10; log 6). -/
def defaultPutspTerm : PutspTerm := .zeroWord

/-- The parameters at their defaults (R6). -/
def defaultParams : Params :=
  { inPrompt := defaultInPrompt, haltNotice := defaultHaltNotice, putspTerm := defaultPutspTerm }

end Sys2Proof.Machine
end

