-- ==== Sys2Proof/Machine/State.lean ====
section
/-! DEFINITION. The architectural state of LC-3 CORE (10_state.md, 20_memory.md R50, 60_exceptions.md),
the reasons a step can stop, and reset. -/

namespace Sys2Proof.Machine

/-- What the host answers at one call of the console's input (60_exceptions.md R253): nothing is ready,
or a byte is. A state lists the answers still to come (log 3). -/
inductive HostTurn where
  /-- `key_available` answers false; `read_char` goes on waiting. -/
  | quiet
  /-- `key_available` answers true and leaves the byte; `read_char` takes it. -/
  | key (b : Byte)
  deriving DecidableEq, Repr

/-- The two routines with a blocking read, the core's only waits (R257). -/
inductive ReadRoutine where
  /-- GETC, vector 0x20 (R201). -/
  | getc
  /-- IN, vector 0x23 (R204). -/
  | inEcho
  deriving DecidableEq, Repr

/-- The three fatal decode errors (R240). -/
inductive FaultCause where
  /-- Opcode 0b1000, code 1. -/
  | rti
  /-- Opcode 0b1101, code 2. -/
  | res
  /-- A TRAP whose vector has no routine, code 3, which also records the vector. -/
  | badTrap (vector : Byte)
  deriving DecidableEq, Repr

/-- The fault record (R240, R241). -/
structure FaultRecord where
  cause : FaultCause
  /-- The instruction word. -/
  instr : Word
  /-- The address it was fetched from. -/
  addr : Word
  deriving DecidableEq, Repr

/-- The run state (10_state.md R33). All but `running` are terminal. -/
inductive RunState where
  | running
  | halted
  | faulted (record : FaultRecord)
  | aborted
  deriving DecidableEq, Repr

/-- The state of the machine: the spec's (10_state.md's table) and the model's own four fields. -/
structure State where
  /-- R0 to R7 (R20). -/
  regs : Vector Word 8
  /-- The program counter (R23). -/
  pc : Word
  /-- COND (R26). -/
  cond : BitVec 3
  /-- The memory array, KBSR and KBDR among its cells (20_memory.md R50, R63). -/
  mem : Memory
  /-- The run state, with the fault record when faulted (R33, R241). -/
  run : RunState
  /-- The exit status, none until a terminal state (R33, R39). -/
  exitStatus : Option Int
  /-- The host's coming answers at the console's input, next one first; when none is listed the host
  stays silent (R34(a), R253; log 3). -/
  input : List HostTurn
  /-- The console output stream, oldest byte first (R34(c), R209). -/
  output : List Byte
  /-- The model's own: the blocking read the core is inside (R246, R257; log 5). -/
  waiting : Option ReadRoutine
  /-- The model's own: the word fetched by the instruction under way, `instr` of R24 (log 7). -/
  ir : Word
  /-- The model's own: after how many more boundaries or waits the host asserts the abort (R246;
  log 4). -/
  abortIn : Option Nat
  /-- The model's own: the parameters this machine is built with (00_scope.md R6; log 6). -/
  params : Params
  deriving DecidableEq, Repr

/-- Why the machine stops without a next state. The fatal decode errors are not among them: those are
next states whose run state is faulted (R241). -/
inductive Fault where
  /-- Raised by TRAP PUTS and TRAP PUTSP when no cell of memory ends the string: the routine never ends,
  "which is a hang, not a fault" (44_trap.md R203, R205; 93_implementation_defined.md, `stuck`). Safe:
  the step has no next state (log 10). -/
  | stringNeverEnds
  deriving DecidableEq, Repr

/-- Why the model gives an instruction no meaning. -/
inductive Refusal where
  /-- Raised by an arm of `exec` whose instruction has no meaning yet; no arm is left so. Safe. -/
  | notModelled (mnemonic : String)
  deriving DecidableEq, Repr

/-- The state in which the run loop starts, for any value of the parameters of R6 (70_reset R270 step 5
with step 1's values, 10_state.md R35 to R39); `mem` holds `INIT_MEM` and the images loaded over it. -/
def State.boot (params : Params) (pcStart : Word) (initRegs : Vector Word 8) (mem : Memory) : State :=
  { regs := initRegs
    pc := pcStart
    cond := resetCond
    mem := mem
    run := .running
    exitStatus := none
    input := []
    output := []
    waiting := none
    ir := 0x0000#16
    abortIn := none
    params := params }

/-- The machine right after reset, with nothing loaded: every parameter at its default (R35 to R39;
log 1, log 2, log 6). -/
def State.reset : State := State.boot defaultParams defaultPcStart defaultInitRegs []

end Sys2Proof.Machine
end

