-- ==== Sys2Proof/Machine/Operands.lean ====
section
/-! DEFINITION. The operand forms: sign and zero extension (00_scope.md R10, R11), the immediates
(30_encoding.md R95) and the effective addresses (20_memory.md R58, 42_load_store.md R167). -/

namespace Sys2Proof.Machine

/-- `sext_5`, for imm5 (R10). -/
def sext5 (v : BitVec 5) : Word := v.signExtend 16

/-- `sext_6`, for offset6 (R10). -/
def sext6 (v : BitVec 6) : Word := v.signExtend 16

/-- `sext_9`, for PCoffset9 (R10). -/
def sext9 (v : BitVec 9) : Word := v.signExtend 16

/-- `sext_11`, for PCoffset11 (R10). -/
def sext11 (v : BitVec 11) : Word := v.signExtend 16

/-- `zext_16`, for console characters (R11). -/
def zext16 (b : Byte) : Word := b.setWidth 16

/-- Bits 7:0 of a word: the character OUT and PUTS write, and PUTSP's first (R202, R203, R205). -/
def lowByte (w : Word) : Byte := w.extractLsb' 0 8

/-- Bits 15:8 of a word: PUTSP's second character (R205). -/
def highByte (w : Word) : Byte := w.extractLsb' 8 8

/-- `x[i]`, the value of general register Ri (R12, R20). -/
def State.readReg (s : State) (r : RegId) : Word := s.regs[r.toNat]'(r.isLt)

/-- PC-relative, 9 bits: `pc + sext_9(off)`, for BR, LD, ST, LDI, STI, LEA (R167, R120). -/
def State.pcRel9 (s : State) (off : BitVec 9) : Word := s.pc + sext9 off

/-- PC-relative, 11 bits: `pc + sext_11(off)`, for JSR (R123). -/
def State.pcRel11 (s : State) (off : BitVec 11) : Word := s.pc + sext11 off

/-- Base+offset: `x[BaseR] + sext_6(off)`, for LDR and STR (R162, R166). -/
def State.baseOff6 (s : State) (baseR : RegId) (off : BitVec 6) : Word := s.readReg baseR + sext6 off

end Sys2Proof.Machine
end

