-- ==== Sys2Proof/Machine/Ops.lean ====
section
/-! DEFINITION. The named operations over registers, memory, the console and the run state
(00_scope.md R12, 20_memory.md R53 to R57, 60_exceptions.md R241, R246, R253). -/

namespace Sys2Proof.Machine

/-- R0, which GETC and IN write and OUT, PUTS and PUTSP read (R21). -/
def reg0 : RegId := 0#3

/-- R7, the link register (R21). -/
def reg7 : RegId := 7#3

/-- KBSR, the keyboard status register's address (R63). -/
def kbsr : Word := 0xFE00#16

/-- KBDR, the keyboard data register's address (R63). -/
def kbdr : Word := 0xFE02#16

/-! Registers, COND and PC. -/

/-- `x[i] <- v` (R12). -/
def State.writeReg (s : State) (r : RegId) (v : Word) : State :=
  { s with regs := s.regs.set r.toNat v (r.isLt) }

/-- `pc <- target` (R12). -/
def State.setPc (s : State) (target : Word) : State := { s with pc := target }

/-- `setcc(v)` (R27). -/
def State.setcc (s : State) (v : Word) : State := { s with cond := condOf v }

/-- The end of the seven flag-setting instructions: `x[DR] <- v; setcc(v)` (R28). -/
def State.writeResult (s : State) (dr : RegId) (v : Word) : State := (s.writeReg dr v).setcc v

/-- `x[7] <- pc`: the link of JSR and JSRR and the entry of TRAP, which saves nothing else (R123, R124,
R200, R248). -/
def State.link (s : State) : State := s.writeReg reg7 s.pc

/-! Memory. -/

/-- `RawRead(a)`: MEM[a], with no side effect (R57). -/
def State.rawRead (s : State) (a : Word) : Word := s.mem.read a.toNat

/-- `MemWrite(a, v)`: a plain store at every address (R56). -/
def State.memWrite (s : State) (a v : Word) : State := { s with mem := s.mem.write a.toNat v }

/-- `KbPoll()` (R54): with a byte ready, KBSR <- 0x8000 and KBDR <- the byte, which is consumed; without,
KBSR <- 0x0000. -/
def State.kbPoll (s : State) : State :=
  match s.input with
  | .key b :: rest => ({ s with input := rest }.memWrite kbsr 0x8000#16).memWrite kbdr (zext16 b)
  | .quiet :: rest => { s with input := rest }.memWrite kbsr 0x0000#16
  | [] => s.memWrite kbsr 0x0000#16

/-- The side effect of `MemRead(a)`: a poll when the address is KBSR, else none (R53, R62). -/
def State.readEffect (s : State) (a : Word) : State := if a = kbsr then s.kbPoll else s

/-- `MemRead(a)`: the word read and the state after the read (R53). -/
def State.memRead (s : State) (a : Word) : Word × State :=
  ((s.readEffect a).rawRead a, s.readEffect a)

/-- The fetch of R24 and R274: `instr <- MemRead(pc); pc <- pc + 1`. -/
def State.fetch (s : State) : State :=
  { (s.memRead s.pc).2 with pc := s.pc + 1#16, ir := (s.memRead s.pc).1 }

/-! The console. -/

/-- `Console.write_char` of each byte in order (R209, R253). -/
def State.writeChars (s : State) (bs : List Byte) : State := { s with output := s.output ++ bs }

/-- What a routine does with the byte its blocking read returns: IN echoes it once, and both put it in
R0, zero-extended (R201, R204). -/
def State.finishRead (s : State) (r : ReadRoutine) (b : Byte) : State :=
  match r with
  | .getc => s.writeReg reg0 (zext16 b)
  | .inEcho => (s.writeChars [b]).writeReg reg0 (zext16 b)

/-- `Console.read_char` inside a routine: with a byte ready the routine goes on to its end; without, the
core waits, and the effects before the wait stay (R246, R253, R257; log 5). -/
def State.blockingRead (s : State) (r : ReadRoutine) : State :=
  match s.input with
  | .key b :: rest => { s with input := rest, waiting := none }.finishRead r b
  | .quiet :: rest => { s with input := rest, waiting := some r }
  | [] => { s with waiting := some r }

/-- The loop of PUTS from address `a`, over at most `n` cells: the bytes written before the first zero
word, or none if no cell is zero (R203). -/
def State.putsWalk (s : State) : Nat → Word → Option (List Byte)
  | 0, _ => none
  | n + 1, a =>
    if s.rawRead a = 0x0000#16 then some []
    else (State.putsWalk s n (a + 1#16)).map fun bs => lowByte (s.rawRead a) :: bs

/-- The loop of PUTSP from address `a`, over at most `n` cells, under either reading of its end
condition (R205). -/
def State.putspWalk (s : State) : Nat → Word → Option (List Byte)
  | 0, _ => none
  | n + 1, a =>
    if s.rawRead a = 0x0000#16 then some []
    else if s.params.putspTerm = .zeroByte ∧ lowByte (s.rawRead a) = 0#8 then some []
    else if highByte (s.rawRead a) ≠ 0#8 then
      (State.putspWalk s n (a + 1#16)).map fun bs =>
        lowByte (s.rawRead a) :: highByte (s.rawRead a) :: bs
    else if s.params.putspTerm = .zeroByte then some [lowByte (s.rawRead a)]
    else (State.putspWalk s n (a + 1#16)).map fun bs => lowByte (s.rawRead a) :: bs

/-- The end of PUTS and PUTSP: the string's bytes are written; a string that no cell of memory ends keeps
the routine from ever ending (R203, R205; log 10). -/
def State.writeString (s : State) (walk : Option (List Byte)) : Host.Outcome State Fault Refusal :=
  match walk with
  | some bs => .next (s.writeChars bs)
  | none => .fault .stringNeverEnds

/-! The run state. -/

/-- `raise Fault(cause, info)`: the one way into the faulted state. The record holds the fetched word and
its address `pc - 1`; the exit status is 1; nothing else changes (R240, R241). There is no return from
it (R244). -/
def State.raiseFault (s : State) (cause : FaultCause) : State :=
  { s with run := .faulted { cause := cause, instr := s.ir, addr := s.pc - 1#16 }, exitStatus := some 1 }

/-- `halt`: the run state becomes Halted and the exit status 0 (R206). -/
def State.halt (s : State) : State := { s with run := .halted, exitStatus := some 0 }

/-- The external abort: the run state becomes Aborted with exit status `ABORT_STATUS`; a wait under way
ends and the rest of its routine is not performed (R246). -/
def State.takeAbort (s : State) : State :=
  { s with run := .aborted, exitStatus := some Config.abortStatus, waiting := none }

/-- One boundary or wait fewer until the host asserts the abort (R246; log 4). -/
def State.tickAbort (s : State) : State := { s with abortIn := s.abortIn.map fun n => n - 1 }

/-- The numbering of the fatal decode errors (R240). -/
def faultCode (c : FaultCause) : Nat :=
  match c with
  | .rti => 1
  | .res => 2
  | .badTrap _ => 3

/-- The fault record, none unless faulted (R39, R241). -/
def State.faultRecord (s : State) : Option FaultRecord :=
  match s.run with
  | .faulted r => some r
  | .running => none
  | .halted => none
  | .aborted => none

end Sys2Proof.Machine
end

