-- ==== Sys2Proof/Machine/Control.lean ====
section
/-! DEFINITION. Control transfer: BR, JMP, JSR, JSRR (40_control.md). In every meaning the fetch has
already happened, so `s.pc` is the instruction's address plus one. -/

namespace Sys2Proof.Machine

/-- BR (R120). -/
def execBr (n z p : Bool) (off : BitVec 9) (s : State) : Host.Outcome State Fault Refusal :=
  .next (if branchTaken (condField n z p) s.cond then s.setPc (s.pcRel9 off) else s)

/-- JMP; RET is `JMP R7` (R121, R122). -/
def execJmp (baseR : RegId) (s : State) : Host.Outcome State Fault Refusal :=
  .next (s.setPc (s.readReg baseR))

/-- JSR (R123). -/
def execJsr (off : BitVec 11) (s : State) : Host.Outcome State Fault Refusal :=
  .next (s.link.setPc (s.pcRel11 off))

/-- JSRR: BaseR is read after the write of R7 (R124). -/
def execJsrr (baseR : RegId) (s : State) : Host.Outcome State Fault Refusal :=
  .next (s.link.setPc (s.link.readReg baseR))

end Sys2Proof.Machine
end

