-- ==== Sys2Proof/Machine/LoadStore.lean ====
section
/-! DEFINITION. Loads, stores and LEA (42_load_store.md). A load is a MemRead, which polls the keyboard
at KBSR; a store is a plain MemWrite (20_memory.md R53, R56). -/

namespace Sys2Proof.Machine

/-- `v <- MemRead(ea); x[DR] <- v; setcc(v)`, the end of every load (R160 to R162). -/
def State.loadInto (s : State) (dr : RegId) (ea : Word) : State :=
  (s.memRead ea).2.writeResult dr (s.memRead ea).1

/-- LD (R160). -/
def execLd (dr : RegId) (off : BitVec 9) (s : State) : Host.Outcome State Fault Refusal :=
  .next (s.loadInto dr (s.pcRel9 off))

/-- LDI: the pointer read, then the load through it (R161). -/
def execLdi (dr : RegId) (off : BitVec 9) (s : State) : Host.Outcome State Fault Refusal :=
  .next ((s.memRead (s.pcRel9 off)).2.loadInto dr (s.memRead (s.pcRel9 off)).1)

/-- LDR (R162). -/
def execLdr (dr baseR : RegId) (off : BitVec 6) (s : State) : Host.Outcome State Fault Refusal :=
  .next (s.loadInto dr (s.baseOff6 baseR off))

/-- LEA: the address itself, with no memory access (R163). -/
def execLea (dr : RegId) (off : BitVec 9) (s : State) : Host.Outcome State Fault Refusal :=
  .next (s.writeResult dr (s.pcRel9 off))

/-- ST (R164). -/
def execSt (sr : RegId) (off : BitVec 9) (s : State) : Host.Outcome State Fault Refusal :=
  .next (s.memWrite (s.pcRel9 off) (s.readReg sr))

/-- STI: the pointer is read by a MemRead, then the store is plain (R165). -/
def execSti (sr : RegId) (off : BitVec 9) (s : State) : Host.Outcome State Fault Refusal :=
  .next ((s.memRead (s.pcRel9 off)).2.memWrite (s.memRead (s.pcRel9 off)).1 (s.readReg sr))

/-- STR (R166). -/
def execStr (sr baseR : RegId) (off : BitVec 6) (s : State) : Host.Outcome State Fault Refusal :=
  .next (s.memWrite (s.baseOff6 baseR off) (s.readReg sr))

end Sys2Proof.Machine
end

