-- ==== Sys2Proof/Machine/Operate.lean ====
section
/-! DEFINITION. The operate instructions: ADD, AND, NOT (41_operate.md). -/

namespace Sys2Proof.Machine

/-- ADD, register form (R140). -/
def execAddReg (dr sr1 sr2 : RegId) (s : State) : Host.Outcome State Fault Refusal :=
  .next (s.writeResult dr (s.readReg sr1 + s.readReg sr2))

/-- ADD, immediate form (R141). -/
def execAddImm (dr sr1 : RegId) (imm : BitVec 5) (s : State) : Host.Outcome State Fault Refusal :=
  .next (s.writeResult dr (s.readReg sr1 + sext5 imm))

/-- AND, register form (R142). -/
def execAndReg (dr sr1 sr2 : RegId) (s : State) : Host.Outcome State Fault Refusal :=
  .next (s.writeResult dr (s.readReg sr1 &&& s.readReg sr2))

/-- AND, immediate form (R143). -/
def execAndImm (dr sr1 : RegId) (imm : BitVec 5) (s : State) : Host.Outcome State Fault Refusal :=
  .next (s.writeResult dr (s.readReg sr1 &&& sext5 imm))

/-- NOT (R144). -/
def execNot (dr sr : RegId) (s : State) : Host.Outcome State Fault Refusal :=
  .next (s.writeResult dr (~~~ s.readReg sr))

end Sys2Proof.Machine
end

