-- ==== Sys2Proof/Machine/Trap.lean ====
section
/-! DEFINITION. TRAP and its built-in service routines (44_trap.md). Every one writes R7 first (R200);
none writes COND or PC, and none reads memory but PUTS and PUTSP (R208, R210). -/

namespace Sys2Proof.Machine

/-- TRAP 0x20, GETC: one blocking read, no echo (R201). -/
def execTrapGetc (s : State) : Host.Outcome State Fault Refusal := .next (s.link.blockingRead .getc)

/-- TRAP 0x21, OUT: the low byte of R0 (R202). -/
def execTrapOut (s : State) : Host.Outcome State Fault Refusal :=
  .next (s.link.writeChars [lowByte (s.link.readReg reg0)])

/-- TRAP 0x22, PUTS (R203). -/
def execTrapPuts (s : State) : Host.Outcome State Fault Refusal :=
  s.link.writeString (s.link.putsWalk memCells (s.link.readReg reg0))

/-- TRAP 0x23, IN: the prompt, then one blocking read with echo (R204). -/
def execTrapIn (s : State) : Host.Outcome State Fault Refusal :=
  .next ((s.link.writeChars s.params.inPrompt).blockingRead .inEcho)

/-- TRAP 0x24, PUTSP (R205). -/
def execTrapPutsp (s : State) : Host.Outcome State Fault Refusal :=
  s.link.writeString (s.link.putspWalk memCells (s.link.readReg reg0))

/-- TRAP 0x25, HALT: the notice, then the halted state (R206). -/
def execTrapHalt (s : State) : Host.Outcome State Fault Refusal :=
  .next (s.link.writeChars s.params.haltNotice).halt

/-- TRAP with an undefined vector: R7 is written, then Fault(BAD_TRAP) (R207). -/
def execTrapUndefined (vector : Byte) (s : State) : Host.Outcome State Fault Refusal :=
  .next (s.link.raiseFault (.badTrap vector))

end Sys2Proof.Machine
end

