-- ==== Sys2Proof/Machine/Unsupported.lean ====
section
/-! DEFINITION. The unsupported opcodes RTI and RES (43_unsupported.md): their effect is the fatal decode
error itself, a next state (60_exceptions.md R241). -/

namespace Sys2Proof.Machine

/-- RTI: Fault(RTI) in every state (R180, R182). -/
def execRti (s : State) : Host.Outcome State Fault Refusal := .next (s.raiseFault .rti)

/-- RES: Fault(RES) in every state (R181, R182). -/
def execRes (s : State) : Host.Outcome State Fault Refusal := .next (s.raiseFault .res)

end Sys2Proof.Machine
end

