-- ==== Sys2Proof/Machine/Cycle.lean ====
section
/-! DEFINITION. The run loop's body: fetch, decode, dispatch (70_reset_and_hazards.md R274), with what
happens at a boundary or in a wait before it (60_exceptions.md R246, R257). -/

namespace Sys2Proof.Machine

/-- The step of R274: fetch, then the instruction the fetched word decodes to. -/
def runInstruction (s : State) : Host.Outcome State Fault Refusal := exec (decodeWord s.fetch.ir) s.fetch

/-- A running core's turn: inside a blocking read the core goes on with it, else it runs one
instruction. -/
def runTurn (s : State) : Host.Outcome State Fault Refusal :=
  match s.waiting with
  | some r => .next (s.blockingRead r)
  | none => runInstruction s

/-- One step: nothing leaves a terminal state and no instruction is fetched in it (R33, R244); a running
core takes an abort asserted now (R246), else has its turn. The step of a terminal state is the model's
(log 14). -/
def cycle (s : State) : Host.Outcome State Fault Refusal :=
  match s.run with
  | .running => if s.abortIn = some 0 then .next s.takeAbort else runTurn s.tickAbort
  | .halted => .next s
  | .faulted _ => .next s
  | .aborted => .next s

/-- The state with the instruction word `w` stored where the next instruction is fetched, `pc`. -/
def placeWord (s : State) (w : Nat) : State := s.memWrite s.pc (BitVec.ofNat 16 w)

end Sys2Proof.Machine
end

