-- ==== Sys2Proof/Machine/Step.lean ====
section
/-! DEFINITION. The step of the machine, and where its next instruction is fetched. -/

namespace Sys2Proof.Machine

/-- One step (70_reset_and_hazards.md R274). -/
def step (s : State) : Host.Outcome State Fault Refusal := cycle s

/-- `s` with the instruction whose bits are `w` stored at the program counter, the address the next
instruction is fetched from (R274). Every instruction is one word (R80), so the bits above the first
word's are none. It stands for the load of a program (log 13). -/
def State.withFetchWord (s : State) (_nbits w : Nat) : State := placeWord s w

end Sys2Proof.Machine
end

