-- ==== Sys2Proof/Machine/Loader.lean ====
section
/-! DEFINITION. The loader port and start-up, used only before the first fetch (00_scope.md R7,
70_reset_and_hazards.md R270 to R272). -/

namespace Sys2Proof.Machine

/-- The configuration errors that stop start-up before any instruction (R272). -/
inductive ConfigError where
  /-- No image is given. -/
  | usage
  /-- An image fails to load: it is shorter than its origin word (R271; 92_eei_decisions.md D16). -/
  | imageFailed
  deriving DecidableEq, Repr

/-- The exit status of a configuration error: 2 for no image, 1 for a load failure (R272). -/
def configStatus (e : ConfigError) : Int :=
  match e with
  | .usage => 2
  | .imageFailed => 1

/-- Two bytes of an image as a word, big-endian (R271). -/
def beWord (hi lo : Byte) : Word := hi ++ lo

/-- The loop of R271: whole words go to rising addresses from `a`; a trailing odd byte and words that
would land above 0xFFFF are dropped. -/
def loadWords : List Byte → Nat → Memory → Memory
  | hi :: lo :: rest, a, m =>
    if a < memCells then loadWords rest (a + 1) (m.write a (beWord hi lo)) else m
  | [_], _, m => m
  | [], _, m => m

/-- `load(b)` of R271: the first word is the origin. -/
def loadImage (b : List Byte) (m : Memory) : Except ConfigError Memory :=
  match b with
  | hi :: lo :: rest => .ok (loadWords rest (beWord hi lo).toNat m)
  | [_] => .error .imageFailed
  | [] => .error .imageFailed

/-- Every image in argument order, the last write winning; a failure stops it (R270 step 3, R271), and
what earlier images wrote is then not shown (log 16). -/
def loadImages : List (List Byte) → Memory → Except ConfigError Memory
  | [], m => .ok m
  | b :: rest, m =>
    match loadImage b m with
    | .ok m' => loadImages rest m'
    | .error e => .error e

/-- Start-up (R270) for any value of the parameters of R6: the state in which the run loop starts, or the
configuration error that stops it. Raw mode (step 4) is the host's and no state of the core. DESIGN
CHOICE: an error is answered alone, without the memory that earlier images wrote, of which R272 says only
that nothing more is observable (log 16; safe). -/
def startUp (params : Params) (pcStart : Word) (initRegs : Vector Word 8) (initMem : Memory)
    (images : List (List Byte)) : Except ConfigError State :=
  match images with
  | [] => .error .usage
  | b :: rest =>
    match loadImages (b :: rest) initMem with
    | .ok m => .ok (State.boot params pcStart initRegs m)
    | .error e => .error e

end Sys2Proof.Machine
end

