-- ==== Sys2Proof/Safety.lean ====
section
/-! DEFINITION. What counts as a good state and as an unchanged part of a state, in the terms the
statements use. -/

namespace Sys2Proof.Machine

/-- The exit status belongs to the run state: none while running, 0 halted, 1 faulted, `ABORT_STATUS`
aborted (10_state.md R33, R39). -/
def State.ExitMatches (s : State) : Prop :=
  match s.run with
  | .running => s.exitStatus = none
  | .halted => s.exitStatus = some 0
  | .faulted _ => s.exitStatus = some 1
  | .aborted => s.exitStatus = some Config.abortStatus

/-- The invariant of the machine. -/
structure State.Inv (s : State) : Prop where
  /-- The memory is in its canonical form, so its addresses are of the 65,536 (R50). -/
  mem_wf : s.mem.wf = true
  /-- COND holds exactly one flag (R26). -/
  cond_legal : condLegal s.cond = true
  /-- The exit status belongs to the run state (R33). -/
  exit_matches : s.ExitMatches
  /-- Only a running core waits (R257, R33). -/
  wait_running : s.waiting ≠ none → s.run = .running
  /-- A core waiting inside GETC or IN has already linked: R7 holds the address after the TRAP
  (R200, R246). -/
  wait_linked : s.waiting ≠ none → s.readReg reg7 = s.pc

/-! Frames. -/

/-- Every general register but those of `rs` is unchanged. -/
def regsKept (rs : List RegId) (s t : State) : Prop := ∀ r, r ∉ rs → t.readReg r = s.readReg r

/-- Every cell of memory but those of `as` reads as before. -/
def memKept (as : List Word) (s t : State) : Prop := ∀ a, a ∉ as → t.rawRead a = s.rawRead a

/-- Nothing was read from or written to the console. -/
def consoleKept (s t : State) : Prop := t.input = s.input ∧ t.output = s.output

/-- The run state, the exit status and the wait are unchanged. -/
def runKept (s t : State) : Prop :=
  t.run = s.run ∧ t.exitStatus = s.exitStatus ∧ t.waiting = s.waiting

/-- What no instruction's own effect changes: the fetched word, the host's abort, the parameters. -/
def fixedKept (s t : State) : Prop :=
  t.ir = s.ir ∧ t.abortIn = s.abortIn ∧ t.params = s.params

/-- The cells a MemRead of `a` may change: those of the poll, when it polls (R53, R54, R62). -/
def readTouches (a : Word) : List Word := if a = kbsr then [kbsr, kbdr] else []

/-! What an instruction is said to do, read off the rules. -/

/-- The register whose new value sets COND, for the seven flag-setting instructions (R28). -/
def flagDest : Instr → Option RegId
  | .addReg dr _ _ => some dr
  | .addImm dr _ _ => some dr
  | .andReg dr _ _ => some dr
  | .andImm dr _ _ => some dr
  | .not dr _ => some dr
  | .ld dr _ => some dr
  | .ldi dr _ => some dr
  | .ldr dr _ _ => some dr
  | .lea dr _ => some dr
  | .br _ _ _ _ => none
  | .st _ _ => none
  | .jsr _ => none
  | .jsrr _ => none
  | .str _ _ _ => none
  | .rti => none
  | .sti _ _ => none
  | .jmp _ => none
  | .res => none
  | .trapGetc => none
  | .trapOut => none
  | .trapPuts => none
  | .trapIn => none
  | .trapPutsp => none
  | .trapHalt => none
  | .trapUndefined _ => none

/-- The addresses an instruction's own MemReads read, in order (R52, R66). -/
def memReads (i : Instr) (s : State) : List Word :=
  match i with
  | .ld _ off => [s.pcRel9 off]
  | .ldr _ baseR off => [s.baseOff6 baseR off]
  | .ldi _ off => [s.pcRel9 off, (s.memRead (s.pcRel9 off)).1]
  | .sti _ off => [s.pcRel9 off]
  | .br _ _ _ _ => []
  | .addReg _ _ _ => []
  | .addImm _ _ _ => []
  | .st _ _ => []
  | .jsr _ => []
  | .jsrr _ => []
  | .andReg _ _ _ => []
  | .andImm _ _ _ => []
  | .str _ _ _ => []
  | .rti => []
  | .not _ _ => []
  | .jmp _ => []
  | .res => []
  | .lea _ _ => []
  | .trapGetc => []
  | .trapOut => []
  | .trapPuts => []
  | .trapIn => []
  | .trapPutsp => []
  | .trapHalt => []
  | .trapUndefined _ => []

/-- The address an instruction stores to and the word it stores, if it stores (R52). -/
def storeOf (i : Instr) (s : State) : Option (Word × Word) :=
  match i with
  | .st sr off => some (s.pcRel9 off, s.readReg sr)
  | .str sr baseR off => some (s.baseOff6 baseR off, s.readReg sr)
  | .sti sr off => some ((s.memRead (s.pcRel9 off)).1, s.readReg sr)
  | .br _ _ _ _ => none
  | .addReg _ _ _ => none
  | .addImm _ _ _ => none
  | .ld _ _ => none
  | .jsr _ => none
  | .jsrr _ => none
  | .andReg _ _ _ => none
  | .andImm _ _ _ => none
  | .ldr _ _ _ => none
  | .rti => none
  | .not _ _ => none
  | .ldi _ _ => none
  | .jmp _ => none
  | .res => none
  | .lea _ _ => none
  | .trapGetc => none
  | .trapOut => none
  | .trapPuts => none
  | .trapIn => none
  | .trapPutsp => none
  | .trapHalt => none
  | .trapUndefined _ => none

/-- The fatal decode error an instruction raises, if it raises one (R240). -/
def faultOf : Instr → Option FaultCause
  | .rti => some .rti
  | .res => some .res
  | .trapUndefined v => some (.badTrap v)
  | .br _ _ _ _ => none
  | .addReg _ _ _ => none
  | .addImm _ _ _ => none
  | .ld _ _ => none
  | .st _ _ => none
  | .jsr _ => none
  | .jsrr _ => none
  | .andReg _ _ _ => none
  | .andImm _ _ _ => none
  | .ldr _ _ _ => none
  | .str _ _ _ => none
  | .not _ _ => none
  | .ldi _ _ => none
  | .sti _ _ => none
  | .jmp _ => none
  | .lea _ _ => none
  | .trapGetc => none
  | .trapOut => none
  | .trapPuts => none
  | .trapIn => none
  | .trapPutsp => none
  | .trapHalt => none

/-- The instructions of opcode TRAP (R92). -/
def isTrap (i : Instr) : Bool :=
  match i with
  | .trapGetc => true
  | .trapOut => true
  | .trapPuts => true
  | .trapIn => true
  | .trapPutsp => true
  | .trapHalt => true
  | .trapUndefined _ => true
  | .br _ _ _ _ => false
  | .addReg _ _ _ => false
  | .addImm _ _ _ => false
  | .ld _ _ => false
  | .st _ _ => false
  | .jsr _ => false
  | .jsrr _ => false
  | .andReg _ _ _ => false
  | .andImm _ _ _ => false
  | .ldr _ _ _ => false
  | .str _ _ _ => false
  | .rti => false
  | .not _ _ => false
  | .ldi _ _ => false
  | .sti _ _ => false
  | .jmp _ => false
  | .res => false
  | .lea _ _ => false

/-- A running core that is not waiting and takes no abort now: its step runs an instruction. -/
def State.Ready (s : State) : Prop := s.run = .running ∧ s.waiting = none ∧ s.abortIn ≠ some 0

/-- The bytes the host still has to supply, in order: its answers without the calls at which nothing is
ready (R253). -/
def comingBytes : List HostTurn → List Byte
  | [] => []
  | .quiet :: rest => comingBytes rest
  | .key b :: rest => b :: comingBytes rest

/-- The word an image places at address `a`, if it places one (R271): word `a - origin` of those after
the origin word, of the whole words at addresses up to 0xFFFF. -/
def imageWord (b : List Byte) (a : Nat) : Option Word :=
  let origin := (b.getD 0 0#8 ++ b.getD 1 0#8 : Word).toNat
  let k := a - origin
  if origin ≤ a ∧ a ≤ 0xFFFF ∧ 3 + 2 * k < b.length then
    some (b.getD (2 + 2 * k) 0#8 ++ b.getD (3 + 2 * k) 0#8)
  else none

/-- The word `k` places after the one R0 points at, as PUTS and PUTSP step through memory, the pointer
wrapping (R58, R203). -/
def State.stringWord (s : State) (k : Nat) : Word := s.rawRead (s.readReg reg0 + BitVec.ofNat 16 k)

/-- The byte `j` places into that string, two a word, low byte first (R59, R205). -/
def State.packedByte (s : State) (j : Nat) : Byte :=
  if j % 2 = 0 then lowByte (s.stringWord (j / 2)) else highByte (s.stringWord (j / 2))

end Sys2Proof.Machine
end

