-- ==== Sys2Proof/Certificates/Slice0/Obligations.lean ====
section
/-! DEFINITION. The statements about LC-3 CORE, each a Prop the provers settle. `s.pc` in a statement about
`exec` is the address of the instruction plus one, as the fetch leaves it (10_state.md R24). -/

open Sys2Proof Sys2Proof.Machine

/-- One word of each family, written bit by bit from formats R83 to R93, decodes to the instruction it
stands for: 0x03FD, 0x1283, 0x12A1, 0x5020, 0x92BF, 0x6BBF, 0x74FF, 0xA802, 0xE7FE, 0x4802,
0x40C0, 0xC1C0, 0x8000, 0xDABC, 0xF025 and 0xF026. (R82, R83, R84, R85, R86, R87, R88, R89, R90,
R91, R92, R93.) -/
def Obligations.WordsWrittenFromTheFormatsDecode : Prop :=
  decodeWord 0b0000001111111101#16 = .br false false true 0b111111101#9 ∧
    decodeWord 0b0001001010000011#16 = .addReg 1#3 2#3 3#3 ∧
    decodeWord 0b0001001010100001#16 = .addImm 1#3 2#3 1#5 ∧
    decodeWord 0b0101000000100000#16 = .andImm 0#3 0#3 0#5 ∧
    decodeWord 0b1001001010111111#16 = .not 1#3 2#3 ∧
    decodeWord 0b0110101110111111#16 = .ldr 5#3 6#3 0b111111#6 ∧
    decodeWord 0b0111010011111111#16 = .str 2#3 3#3 0b111111#6 ∧
    decodeWord 0b1010100000000010#16 = .ldi 4#3 2#9 ∧
    decodeWord 0b1110011111111110#16 = .lea 3#3 0b111111110#9 ∧
    decodeWord 0b0100100000000010#16 = .jsr 2#11 ∧
    decodeWord 0b0100000011000000#16 = .jsrr 3#3 ∧
    decodeWord 0b1100000111000000#16 = .jmp 7#3 ∧
    decodeWord 0b1000000000000000#16 = .rti ∧
    decodeWord 0b1101101010111100#16 = .res ∧
    decodeWord 0b1111000000100101#16 = .trapHalt ∧
    decodeWord 0b1111000000100110#16 = .trapUndefined 0x26#8

/-- For every value of every field and of every bit marked x: the words of formats R83 to R93, each
field at the place its format gives it, decode to the instruction of the format with those fields;
a TRAP word with vector 0x20 to 0x25 decodes to its routine, with any other to the undefined
vector. (R83, R84, R85, R86, R87, R88, R89, R90, R91, R92, R93, R97.) -/
def Obligations.FormatsDecodeWithAnyIgnoredBits : Prop :=
  (∀ (n z p : Bool) (off : BitVec 9), decodeWord
        (0b0000#4 ++ BitVec.ofBool n ++ BitVec.ofBool z ++ BitVec.ofBool p ++ off) = .br n z p off) ∧
    (∀ (dr sr1 sr2 : RegId) (x : BitVec 2),
      decodeWord (0b0001#4 ++ dr ++ sr1 ++ 0b0#1 ++ x ++ sr2) = .addReg dr sr1 sr2 ∧
      decodeWord (0b0101#4 ++ dr ++ sr1 ++ 0b0#1 ++ x ++ sr2) = .andReg dr sr1 sr2) ∧
    (∀ (dr sr1 : RegId) (imm : BitVec 5),
      decodeWord (0b0001#4 ++ dr ++ sr1 ++ 0b1#1 ++ imm) = .addImm dr sr1 imm ∧
      decodeWord (0b0101#4 ++ dr ++ sr1 ++ 0b1#1 ++ imm) = .andImm dr sr1 imm) ∧
    (∀ (dr sr : RegId) (x : BitVec 6), decodeWord (0b1001#4 ++ dr ++ sr ++ x) = .not dr sr) ∧
    (∀ (r : RegId) (off : BitVec 9),
      decodeWord (0b0010#4 ++ r ++ off) = .ld r off ∧
      decodeWord (0b0011#4 ++ r ++ off) = .st r off ∧
      decodeWord (0b1010#4 ++ r ++ off) = .ldi r off ∧
      decodeWord (0b1011#4 ++ r ++ off) = .sti r off ∧
      decodeWord (0b1110#4 ++ r ++ off) = .lea r off) ∧
    (∀ (r baseR : RegId) (off : BitVec 6),
      decodeWord (0b0110#4 ++ r ++ baseR ++ off) = .ldr r baseR off ∧
      decodeWord (0b0111#4 ++ r ++ baseR ++ off) = .str r baseR off) ∧
    (∀ off : BitVec 11, decodeWord (0b0100#4 ++ 0b1#1 ++ off) = .jsr off) ∧
    (∀ (x : BitVec 2) (baseR : RegId) (y : BitVec 6),
      decodeWord (0b0100#4 ++ 0b0#1 ++ x ++ baseR ++ y) = .jsrr baseR) ∧
    (∀ (x : BitVec 3) (baseR : RegId) (y : BitVec 6),
      decodeWord (0b1100#4 ++ x ++ baseR ++ y) = .jmp baseR) ∧
    (∀ (x : BitVec 4) (v : Byte), decodeWord (0b1111#4 ++ x ++ v) =
      if v = 0x20#8 then .trapGetc else if v = 0x21#8 then .trapOut
      else if v = 0x22#8 then .trapPuts else if v = 0x23#8 then .trapIn
      else if v = 0x24#8 then .trapPutsp else if v = 0x25#8 then .trapHalt
      else .trapUndefined v) ∧
    (∀ x : BitVec 12, decodeWord (0b1000#4 ++ x) = .rti ∧ decodeWord (0b1101#4 ++ x) = .res)

/-- For every well-formed instruction of every family and every operand value its fields admit,
decodeWord (encode i) = i. (R82, R83, R84, R85, R86, R87, R88, R89, R90, R91, R92, R100.) -/
def Obligations.DecodeUndoesEncode : Prop :=
  ∀ i : Instr, i.wellFormed = true → decodeWord (encode i) = i

/-- For every word, encode (decodeWord w) is w with exactly the bits R97 marks x set to zero. The spec
gives no encoder: that this one writes zeros there is the model's choice (log 15). (R97, R100.) -/
def Obligations.EncodeKeepsTheBitsThatAreRead : Prop :=
  ∀ w : Word, encode (decodeWord w) = w &&& readMask (decodeWord w)

/-- If v and w agree on the bits that w's instruction reads (all but those marked x in R84 to R93),
then v and w decode to the same instruction with the same operands. (R97.) -/
def Obligations.UnreadBitsAreIgnored : Prop :=
  ∀ v w : Word, v &&& readMask (decodeWord w) = w &&& readMask (decodeWord w) →
    decodeWord v = decodeWord w

/-- For every word w and every row number k, w is a word of row k of spec/opcode_table.json if and
only if k is the row of decodeWord w; and decodeWord w is well-formed. (R100, R81.) -/
def Obligations.EveryWordIsOfExactlyOneRow : Prop :=
  ∀ w : Word, (decodeWord w).wellFormed = true ∧
    ∀ k : Nat, rowCovers k w = true ↔ k = tableIndex (decodeWord w)

/-- For every field value v of N bits (N = 5, 6, 9, 11): sext_N(v) is v if its top bit is 0 and v +
(0x10000 - 2^N) if it is 1, and read as signed it is v - 2^N * v[N-1]. (R10.) -/
def Obligations.SignExtensionIsR10 : Prop :=
  (∀ v : BitVec 5, (sext5 v).toNat = (if v.msb then v.toNat + (0x10000 - 2 ^ 5) else v.toNat) ∧
      (sext5 v).toInt = (v.toNat : Int) - 2 ^ 5 * (if v.msb then 1 else 0)) ∧
    (∀ v : BitVec 6, (sext6 v).toNat = (if v.msb then v.toNat + (0x10000 - 2 ^ 6) else v.toNat) ∧
      (sext6 v).toInt = (v.toNat : Int) - 2 ^ 6 * (if v.msb then 1 else 0)) ∧
    (∀ v : BitVec 9, (sext9 v).toNat = (if v.msb then v.toNat + (0x10000 - 2 ^ 9) else v.toNat) ∧
      (sext9 v).toInt = (v.toNat : Int) - 2 ^ 9 * (if v.msb then 1 else 0)) ∧
    (∀ v : BitVec 11, (sext11 v).toNat = (if v.msb then v.toNat + (0x10000 - 2 ^ 11) else v.toNat) ∧
      (sext11 v).toInt = (v.toNat : Int) - 2 ^ 11 * (if v.msb then 1 else 0))

/-- For every state and value v, setcc(v) sets COND to 0b010 if v is 0, to 0b100 if bit 15 of v is 1,
else to 0b001, and changes nothing else. (R27.) -/
def Obligations.SetccSelectsBySign : Prop :=
  ∀ (s : State) (v : Word),
    s.setcc v = { s with cond := if v.toNat = 0 then 0b010#3
                                 else if 0x8000 ≤ v.toNat then 0b100#3 else 0b001#3 }

/-- When an instruction answers a next state: if it is ADD, AND (either form), NOT, LD, LDI, LDR or
LEA, COND is the flag of the value now in its DR; if it is any other, COND is unchanged. (R28,
R29.) -/
def Obligations.OnlySevenInstructionsSetCond : Prop :=
  ∀ (i : Instr) (s t : State), exec i s = .next t →
    match flagDest i with
    | some dr => t.cond = condOf (t.readReg dr)
    | none => t.cond = s.cond

/-- For every instruction but BR: run from two states that differ only in COND, it answers alike, and
the two next states differ at most in COND. (R30.) -/
def Obligations.OnlyBrReadsCond : Prop :=
  ∀ (i : Instr) (s : State) (c : BitVec 3), (∀ n z p off, i ≠ .br n z p off) →
    match exec i s, exec i { s with cond := c } with
    | .next t, .next t' => t' = { t with cond := t'.cond }
    | .fault r, .fault r' => r = r'
    | .refused r, .refused r' => r = r'
    | _, _ => False

/-- ADD DR, SR1, SR2 completes from every state: DR is (SR1 + SR2) mod 65536, both sources read before
DR is written. COND is the flag of that value; every other register, all memory, PC, the console
and the run state are unchanged. (R140.) -/
def Obligations.AddRegisterAddsModulo65536 : Prop :=
  ∀ (dr sr1 sr2 : RegId) (s : State), ∃ t, exec (.addReg dr sr1 sr2) s = .next t ∧
      (t.readReg dr).toNat = ((s.readReg sr1).toNat + (s.readReg sr2).toNat) % 65536 ∧
      t.cond = condOf (t.readReg dr) ∧ regsKept [dr] s t ∧ memKept [] s t ∧ t.pc = s.pc ∧
      consoleKept s t ∧ runKept s t ∧ fixedKept s t

/-- ADD DR, SR1, #imm5 completes from every state: DR is (SR1 + sext_5(imm5)) mod 65536. COND is the
flag of that value; every other register, all memory, PC, the console and the run state are
unchanged. (R141.) -/
def Obligations.AddImmediateAddsModulo65536 : Prop :=
  ∀ (dr sr1 : RegId) (imm : BitVec 5) (s : State), ∃ t, exec (.addImm dr sr1 imm) s = .next t ∧
      (t.readReg dr).toNat = ((s.readReg sr1).toNat + (sext5 imm).toNat) % 65536 ∧
      t.cond = condOf (t.readReg dr) ∧ regsKept [dr] s t ∧ memKept [] s t ∧ t.pc = s.pc ∧
      consoleKept s t ∧ runKept s t ∧ fixedKept s t

/-- AND DR, SR1, SR2 completes from every state: bit k of DR is bit k of SR1 and bit k of SR2. COND is
the flag of that value; every other register, all memory, PC, the console and the run state are
unchanged. (R142.) -/
def Obligations.AndRegisterIsBitwise : Prop :=
  ∀ (dr sr1 sr2 : RegId) (s : State), ∃ t, exec (.andReg dr sr1 sr2) s = .next t ∧
      (∀ k, (t.readReg dr).getLsbD k = ((s.readReg sr1).getLsbD k && (s.readReg sr2).getLsbD k)) ∧
      t.cond = condOf (t.readReg dr) ∧ regsKept [dr] s t ∧ memKept [] s t ∧ t.pc = s.pc ∧
      consoleKept s t ∧ runKept s t ∧ fixedKept s t

/-- AND DR, SR1, #imm5 completes from every state: bit k of DR is bit k of SR1 and bit k of
sext_5(imm5). COND is the flag of that value; every other register, all memory, PC, the console
and the run state are unchanged. (R143.) -/
def Obligations.AndImmediateIsBitwise : Prop :=
  ∀ (dr sr1 : RegId) (imm : BitVec 5) (s : State), ∃ t, exec (.andImm dr sr1 imm) s = .next t ∧
      (∀ k, (t.readReg dr).getLsbD k = ((s.readReg sr1).getLsbD k && (sext5 imm).getLsbD k)) ∧
      t.cond = condOf (t.readReg dr) ∧ regsKept [dr] s t ∧ memKept [] s t ∧ t.pc = s.pc ∧
      consoleKept s t ∧ runKept s t ∧ fixedKept s t

/-- NOT DR, SR completes from every state: DR is 0xFFFF - SR. COND is the flag of that value; every
other register, all memory, PC, the console and the run state are unchanged. (R144.) -/
def Obligations.NotComplements : Prop :=
  ∀ (dr sr : RegId) (s : State), ∃ t, exec (.not dr sr) s = .next t ∧
      (t.readReg dr).toNat = 0xFFFF - (s.readReg sr).toNat ∧
      t.cond = condOf (t.readReg dr) ∧ regsKept [dr] s t ∧ memKept [] s t ∧ t.pc = s.pc ∧
      consoleKept s t ∧ runKept s t ∧ fixedKept s t

/-- LEA DR, PCoffset9 completes from every state: DR is (pc + sext_9(PCoffset9)) mod 65536, with no
poll even when that is 0xFE00. COND is the flag of that value; every other register, all memory,
PC, the console and the run state are unchanged. (R163.) -/
def Obligations.LeaWritesTheAddress : Prop :=
  ∀ (dr : RegId) (off : BitVec 9) (s : State), ∃ t, exec (.lea dr off) s = .next t ∧
      (t.readReg dr).toNat = (s.pc.toNat + (sext9 off).toNat) % 65536 ∧
      t.cond = condOf (t.readReg dr) ∧ regsKept [dr] s t ∧ memKept [] s t ∧ t.pc = s.pc ∧
      consoleKept s t ∧ runKept s t ∧ fixedKept s t

/-- NOT, ADD #1, ADD run one after another leave a - b in the destination, and NOT, NOT, AND, NOT
leave the bitwise or, for every value of the two source registers R0 and R1. (R145.) -/
def Obligations.SoftwareSubtractionAndOr : Prop :=
  ∀ s : State,
    (∃ t u v, exec (.not 2#3 1#3) s = .next t ∧ exec (.addImm 2#3 2#3 1#5) t = .next u ∧
      exec (.addReg 2#3 0#3 2#3) u = .next v ∧ v.readReg 2#3 = s.readReg 0#3 - s.readReg 1#3) ∧
    (∃ t u v x, exec (.not 2#3 0#3) s = .next t ∧ exec (.not 3#3 1#3) t = .next u ∧
      exec (.andReg 2#3 2#3 3#3) u = .next v ∧ exec (.not 2#3 2#3) v = .next x ∧
      x.readReg 2#3 = s.readReg 0#3 ||| s.readReg 1#3)

/-- LD DR, PCoffset9 completes from every state. DR is the word MemRead returns and COND its flag;
memory and the console's input are as that MemRead leaves them, so every cell is unchanged but
KBSR and KBDR when the address is 0xFE00; every other register, PC, the output and the run state
are unchanged. (R160.) -/
def Obligations.LdLoadsPcRelative : Prop :=
  ∀ (dr : RegId) (off : BitVec 9) (s : State), ∃ t, exec (.ld dr off) s = .next t ∧
      t.readReg dr = (s.memRead (s.pc + sext9 off)).1 ∧ t.cond = condOf (t.readReg dr) ∧
      (∀ a, t.rawRead a = (s.memRead (s.pc + sext9 off)).2.rawRead a) ∧
      t.input = (s.memRead (s.pc + sext9 off)).2.input ∧ memKept (readTouches (s.pc + sext9 off)) s t ∧
      regsKept [dr] s t ∧ t.pc = s.pc ∧ t.output = s.output ∧ runKept s t ∧ fixedKept s t

/-- LDR DR, BaseR, offset6 completes from every state, the base read before DR is written. DR is the
word MemRead returns and COND its flag; memory and the console's input are as that MemRead leaves
them, so every cell is unchanged but KBSR and KBDR when the address is 0xFE00; every other
register, PC, the output and the run state are unchanged. (R162.) -/
def Obligations.LdrLoadsBasePlusOffset : Prop :=
  ∀ (dr baseR : RegId) (off : BitVec 6) (s : State), ∃ t, exec (.ldr dr baseR off) s = .next t ∧
      t.readReg dr = (s.memRead (s.readReg baseR + sext6 off)).1 ∧ t.cond = condOf (t.readReg dr) ∧
      (∀ a, t.rawRead a = (s.memRead (s.readReg baseR + sext6 off)).2.rawRead a) ∧
      t.input = (s.memRead (s.readReg baseR + sext6 off)).2.input ∧ memKept (readTouches (s.readReg baseR + sext6 off)) s t ∧
      regsKept [dr] s t ∧ t.pc = s.pc ∧ t.output = s.output ∧ runKept s t ∧ fixedKept s t

/-- LDI DR, PCoffset9 completes from every state: the pointer p is the first MemRead, the value the
second, in that order. COND is the value's flag; memory and input are as the two MemReads leave
them, so every cell is unchanged but KBSR and KBDR when one of the two addresses is 0xFE00; all
else is unchanged. (R161.) -/
def Obligations.LdiLoadsThroughThePointer : Prop :=
  ∀ (dr : RegId) (off : BitVec 9) (s : State), ∃ t, exec (.ldi dr off) s = .next t ∧
      t.readReg dr = ((s.memRead (s.pc + sext9 off)).2.memRead (s.memRead (s.pc + sext9 off)).1).1 ∧
      t.cond = condOf (t.readReg dr) ∧
      (∀ a, t.rawRead a =
        ((s.memRead (s.pc + sext9 off)).2.memRead (s.memRead (s.pc + sext9 off)).1).2.rawRead a) ∧
      t.input =
        ((s.memRead (s.pc + sext9 off)).2.memRead (s.memRead (s.pc + sext9 off)).1).2.input ∧
      memKept (readTouches (s.pc + sext9 off) ++ readTouches (s.memRead (s.pc + sext9 off)).1) s t ∧
      regsKept [dr] s t ∧ t.pc = s.pc ∧ t.output = s.output ∧ runKept s t ∧ fixedKept s t

/-- ST SR, PCoffset9 completes from every state. The cell at the address computed holds SR and every
other cell reads as before; every register, COND, PC, the console and the run state are unchanged.
A store to 0xFE00 or 0xFE02 is the same plain store. (R164.) -/
def Obligations.StStoresPcRelative : Prop :=
  ∀ (sr : RegId) (off : BitVec 9) (s : State), ∃ t, exec (.st sr off) s = .next t ∧
      t.rawRead (s.pc + sext9 off) = s.readReg sr ∧ memKept [s.pc + sext9 off] s t ∧ t.input = s.input ∧
      regsKept [] s t ∧ t.cond = s.cond ∧ t.pc = s.pc ∧ t.output = s.output ∧
      runKept s t ∧ fixedKept s t

/-- STR SR, BaseR, offset6 completes from every state. The cell at the address computed holds SR and
every other cell reads as before; every register, COND, PC, the console and the run state are
unchanged. A store to 0xFE00 or 0xFE02 is the same plain store. (R166.) -/
def Obligations.StrStoresBasePlusOffset : Prop :=
  ∀ (sr baseR : RegId) (off : BitVec 6) (s : State), ∃ t, exec (.str sr baseR off) s = .next t ∧
      t.rawRead (s.readReg baseR + sext6 off) = s.readReg sr ∧ memKept [s.readReg baseR + sext6 off] s t ∧ t.input = s.input ∧
      regsKept [] s t ∧ t.cond = s.cond ∧ t.pc = s.pc ∧ t.output = s.output ∧
      runKept s t ∧ fixedKept s t

/-- STI SR, PCoffset9 completes from every state: the pointer is a MemRead, which polls when its
address is 0xFE00; the cell it names then holds SR, and every other cell is as that MemRead left
it, so unchanged but KBSR and KBDR after a poll. Every register, COND, PC, the output and the run
state are unchanged. (R165.) -/
def Obligations.StiStoresThroughThePointer : Prop :=
  ∀ (sr : RegId) (off : BitVec 9) (s : State), ∃ t, exec (.sti sr off) s = .next t ∧
      t.rawRead (s.memRead (s.pc + sext9 off)).1 = s.readReg sr ∧
      (∀ a, a ≠ (s.memRead (s.pc + sext9 off)).1 →
        t.rawRead a = (s.memRead (s.pc + sext9 off)).2.rawRead a) ∧
      memKept ((s.memRead (s.pc + sext9 off)).1 :: readTouches (s.pc + sext9 off)) s t ∧
      t.input = (s.memRead (s.pc + sext9 off)).2.input ∧
      regsKept [] s t ∧ t.cond = s.cond ∧ t.pc = s.pc ∧ t.output = s.output ∧
      runKept s t ∧ fixedKept s t

/-- For every state and address: if the address is not 0xFE00, MemRead returns MEM[a] and changes
nothing; at 0xFE00 it performs the poll and returns MEM[0xFE00] as the poll left it. (R53, R55,
R62.) -/
def Obligations.MemReadPollsOnlyAtKbsr : Prop :=
  ∀ (s : State) (a : Word),
    (a ≠ 0xFE00#16 → s.memRead a = (s.rawRead a, s)) ∧
    (a = 0xFE00#16 → s.memRead a = (s.kbPoll.rawRead 0xFE00#16, s.kbPoll))

/-- With a byte b ready, the poll sets MEM[0xFE00] to 0x8000 and MEM[0xFE02] to zext_16(b) and
consumes the byte; without one it sets MEM[0xFE00] to 0x0000, keeps MEM[0xFE02], and the bytes
still to come are the same list. Two MemReads of 0xFE00 with two bytes ready consume two. Every
other cell, every register, PC, COND, the output and the run state are unchanged, and the poll
always ends (it never blocks). (R54.) -/
def Obligations.KeyboardPollWritesKbsrAndKbdr : Prop :=
  ∀ s : State,
    (∀ b rest, s.input = .key b :: rest →
      s.kbPoll.rawRead 0xFE00#16 = 0x8000#16 ∧ s.kbPoll.rawRead 0xFE02#16 = zext16 b ∧
      s.kbPoll.input = rest) ∧
    ((∀ b rest, s.input ≠ .key b :: rest) →
      s.kbPoll.rawRead 0xFE00#16 = 0x0000#16 ∧
      s.kbPoll.rawRead 0xFE02#16 = s.rawRead 0xFE02#16 ∧
      comingBytes s.kbPoll.input = comingBytes s.input) ∧
    (∀ b c rest, s.input = .key b :: .key c :: rest →
      ((s.memRead 0xFE00#16).2.memRead 0xFE00#16).2.input = rest) ∧
    memKept [0xFE00#16, 0xFE02#16] s s.kbPoll ∧ regsKept [] s s.kbPoll ∧ s.kbPoll.pc = s.pc ∧
    s.kbPoll.cond = s.cond ∧ s.kbPoll.output = s.output ∧ runKept s s.kbPoll ∧
    fixedKept s s.kbPoll

/-- After a store of v at 0xFE00, a RawRead there gives v, but a MemRead of 0xFE00 answers exactly as
it would have without the store, in value and in the state it leaves. After a store of v at
0xFE02, a MemRead of it returns v and changes nothing. (R56, R55, R57.) -/
def Obligations.StoredKbsrIsNeverRead : Prop :=
  ∀ (s : State) (v : Word),
    (s.memWrite 0xFE00#16 v).rawRead 0xFE00#16 = v ∧
    (s.memWrite 0xFE00#16 v).memRead 0xFE00#16 = s.memRead 0xFE00#16 ∧
    (s.memWrite 0xFE02#16 v).memRead 0xFE02#16 = (v, s.memWrite 0xFE02#16 v)

/-- When an instruction answers a next state, every cell reads as before except: the address its store
computes, and KBSR and KBDR when one of its own MemReads is of 0xFE00. (R52, R71, R62.) -/
def Obligations.OnlyStoresAndPollsWriteMemory : Prop :=
  ∀ (i : Instr) (s t : State) (a : Word), exec i s = .next t →
    (∀ v, storeOf i s ≠ some (a, v)) →
    (0xFE00#16 ∈ memReads i s → a ≠ 0xFE00#16 ∧ a ≠ 0xFE02#16) →
    t.rawRead a = s.rawRead a

/-- If an instruction stores v at a (not 0xFE00, where a fetch polls), then a core that goes on at a
in that state, ready to run, runs exactly the instruction v decodes to, with a + 1 in PC, v in
`ir` and the host's abort countdown one shorter (`ir` and the countdown are the model's own
fields, log 7 and log 4). (R69, R277.) -/
def Obligations.StoreIsSeenByTheNextFetch : Prop :=
  ∀ (i : Instr) (s t : State) (a v : Word), storeOf i s = some (a, v) → exec i s = .next t →
    a ≠ 0xFE00#16 → (t.setPc a).Ready →
    step (t.setPc a) = exec (decodeWord v) { t with
      pc := a + 1#16, ir := v, abortIn := t.abortIn.map fun n => n - 1 }

/-- BR completes from every state. With m the 3-bit field n, z, p: if m & COND is not 0b000, PC is pc
+ sext_9(PCoffset9), else PC is unchanged; nothing else changes in either case. (R120.) -/
def Obligations.BranchAddsTheOffsetWhenTaken : Prop :=
  ∀ (n z p : Bool) (off : BitVec 9) (s : State),
    exec (.br n z p off) s = .next { s with
      pc := if (BitVec.ofBool n ++ BitVec.ofBool z ++ BitVec.ofBool p : BitVec 3) &&& s.cond ≠ 0b000#3
            then s.pc + sext9 off else s.pc }

/-- In every state whose COND holds one flag (the invariant of R26, kept by every step): BR is taken
exactly when n is set and COND is NEG, or z is set and COND is ZERO, or p is set and COND is POS;
so with no bit set it never branches and with all three it always does. (R120, R26, R99.) -/
def Obligations.BranchTestsTheCurrentFlag : Prop :=
  ∀ (n z p : Bool) (off : BitVec 9) (s : State), condLegal s.cond = true →
    exec (.br n z p off) s = .next { s with
      pc := if (n = true ∧ s.cond = 0b100#3) ∨ (z = true ∧ s.cond = 0b010#3) ∨
              (p = true ∧ s.cond = 0b001#3)
            then s.pc + sext9 off else s.pc } ∧
    exec (.br false false false off) s = .next s ∧
    exec (.br true true true off) s = .next { s with pc := s.pc + sext9 off }

/-- JMP BaseR completes from every state: PC is x[BaseR], any 16-bit value, and nothing else changes;
with BaseR = R7 that is RET. (R121.) -/
def Obligations.JmpSetsPcFromTheRegister : Prop :=
  ∀ (baseR : RegId) (s : State), exec (.jmp baseR) s = .next { s with pc := s.readReg baseR }

/-- JSR PCoffset11 completes from every state: R7 is pc (the address after the JSR), PC is (pc +
sext_11(PCoffset11)) mod 65536; R0 to R6, COND, memory, the console and the run state are
unchanged. (R123.) -/
def Obligations.JsrLinksAndJumps : Prop :=
  ∀ (off : BitVec 11) (s : State), ∃ t, exec (.jsr off) s = .next t ∧
      t.readReg 7#3 = s.pc ∧ t.pc.toNat = (s.pc.toNat + (sext11 off).toNat) % 65536 ∧
      regsKept [7#3] s t ∧ t.cond = s.cond ∧ memKept [] s t ∧ consoleKept s t ∧ runKept s t ∧ fixedKept s t

/-- JSRR BaseR completes from every state: R7 is pc; PC is x[BaseR] for BaseR other than R7, and for
BaseR = R7 the value just written, so PC is unchanged; R0 to R6, COND, memory, the console and the
run state are unchanged. (R124.) -/
def Obligations.JsrrReadsBaseAfterTheLink : Prop :=
  ∀ (baseR : RegId) (s : State), ∃ t, exec (.jsrr baseR) s = .next t ∧
      t.readReg 7#3 = s.pc ∧ t.pc = (if baseR = 7#3 then s.pc else s.readReg baseR) ∧
      regsKept [7#3] s t ∧ t.cond = s.cond ∧ memKept [] s t ∧ consoleKept s t ∧ runKept s t ∧ fixedKept s t

/-- If JSR, JSRR or a TRAP answers the next state t from s, then t's R7 is s's pc, and in every state
u whose R7 is t's R7, RET (JMP R7) sets PC to s's pc; GETC and IN included, whether or not they
had to wait. (R122, R125, R248.) -/
def Obligations.RetReturnsToTheLinkAddress : Prop :=
  ∀ (i : Instr) (s t u : State), ((∃ off, i = .jsr off) ∨ (∃ r, i = .jsrr r) ∨ isTrap i = true) →
    exec i s = .next t → u.readReg 7#3 = t.readReg 7#3 →
    exec (.jmp 7#3) u = .next { u with pc := s.pc }

/-- RTI from every state: the run state is Faulted with cause RTI (code 1), the instruction word and
the address pc - 1; the exit status is 1; every register, COND, PC, memory and the console are
unchanged. (R180.) -/
def Obligations.RtiRaisesItsFault : Prop :=
  ∀ s : State, exec .rti s = .next { s with
      run := .faulted { cause := .rti, instr := s.ir, addr := s.pc - 1#16 }, exitStatus := some 1 } ∧
      faultCode .rti = 1

/-- RES from every state: the run state is Faulted with cause RES (code 2), the instruction word and
the address pc - 1; the exit status is 1; every register, COND, PC, memory and the console are
unchanged. (R181.) -/
def Obligations.ResRaisesItsFault : Prop :=
  ∀ s : State, exec .res s = .next { s with
      run := .faulted { cause := .res, instr := s.ir, addr := s.pc - 1#16 }, exitStatus := some 1 } ∧
      faultCode .res = 2

/-- TRAP with any vector taken as undefined completes from every state as its fault: R7 is pc; the run
state is Faulted with cause BAD_TRAP (code 3), the vector, the instruction word and the address pc
- 1; the exit status is 1; R0 to R6, COND, PC, memory and the console are unchanged. (R207.) -/
def Obligations.UndefinedVectorWritesR7ThenFaults : Prop :=
  ∀ (v : Byte) (s : State), ∃ t, exec (.trapUndefined v) s = .next t ∧
      t.readReg 7#3 = s.pc ∧
      t.run = .faulted { cause := .badTrap v, instr := s.ir, addr := s.pc - 1#16 } ∧
      t.exitStatus = some 1 ∧ faultCode (.badTrap v) = 3 ∧ regsKept [7#3] s t ∧ t.cond = s.cond ∧
      t.pc = s.pc ∧ memKept [] s t ∧ consoleKept s t ∧ t.waiting = s.waiting ∧ fixedKept s t

/-- A ready core whose fetch reads w faults in that step if and only if w's opcode is 0b1000 or
0b1101, or it is a TRAP whose bits 7:0 are not 0x20 to 0x25; and then the record holds that cause,
w and the fetch address, PC is that address plus one, and the exit status is 1. (R98, R240, R241.) -/
def Obligations.IllegalWordsAreExactlyTheFatalOnes : Prop :=
  ∀ (s : State) (w : Word), s.Ready → (s.memRead s.pc).1 = w →
    ((∃ t r, step s = .next t ∧ t.run = .faulted r) ↔
      (w.toNat / 4096 = 8 ∨ w.toNat / 4096 = 13 ∨
        (w.toNat / 4096 = 15 ∧ ¬ (0x20 ≤ w.toNat % 256 ∧ w.toNat % 256 ≤ 0x25)))) ∧
    (∀ t r, step s = .next t → t.run = .faulted r →
      faultOf (decodeWord w) = some r.cause ∧ r.instr = w ∧ r.addr = s.pc ∧ t.pc = s.pc + 1#16 ∧
      t.exitStatus = some 1)

/-- TRAP 0x20 with a byte c ready completes in its step: the byte is consumed, R0 is zext_16(c), R7 is
pc; nothing is written to the console; R1 to R6, COND, PC, memory and the run state are unchanged.
(R201, R253.) -/
def Obligations.GetcReadsOneByte : Prop :=
  ∀ (s : State) (c : Byte) (rest : List HostTurn), s.input = .key c :: rest → s.waiting = none →
    ∃ t, exec .trapGetc s = .next t ∧ t.readReg 0#3 = zext16 c ∧ t.readReg 7#3 = s.pc ∧
      t.input = rest ∧ t.output = s.output ∧ regsKept [0#3, 7#3] s t ∧ runKept s t ∧
      t.cond = s.cond ∧ t.pc = s.pc ∧ memKept [] s t ∧ fixedKept s t

/-- TRAP 0x23 with a byte c ready completes in its step: IN_PROMPT and then c are written to the
console, c is consumed, R0 is zext_16(c), R7 is pc; R1 to R6, COND, PC, memory and the run state
are unchanged. For every value of the parameter IN_PROMPT. (R204, R253.) -/
def Obligations.InPromptsReadsAndEchoes : Prop :=
  ∀ (s : State) (c : Byte) (rest : List HostTurn), s.input = .key c :: rest → s.waiting = none →
    ∃ t, exec .trapIn s = .next t ∧ t.output = s.output ++ s.params.inPrompt ++ [c] ∧
      t.readReg 0#3 = zext16 c ∧ t.readReg 7#3 = s.pc ∧ t.input = rest ∧
      regsKept [0#3, 7#3] s t ∧ runKept s t ∧ t.cond = s.cond ∧ t.pc = s.pc ∧ memKept [] s t ∧ fixedKept s t

/-- With no byte ready, TRAP 0x20 and TRAP 0x23 leave the core waiting inside the routine: R7 is pc,
IN has written its prompt; no byte is consumed (the bytes still to come are the same list); R0 to
R6, COND, PC, memory, the run state and the exit status are unchanged. That the wait shows as a
next state with `waiting` set is the model's choice (log 5). (R201, R204, R246, R257.) -/
def Obligations.BlockingReadWaitsWithoutAByte : Prop :=
  ∀ (s : State), (∀ b rest, s.input ≠ .key b :: rest) →
    (∃ t, exec .trapGetc s = .next t ∧ t.waiting = some .getc ∧ t.output = s.output ∧
      t.readReg 7#3 = s.pc ∧ regsKept [7#3] s t ∧ comingBytes t.input = comingBytes s.input ∧
      t.run = s.run ∧ t.exitStatus = s.exitStatus ∧ t.cond = s.cond ∧ t.pc = s.pc ∧ memKept [] s t ∧ fixedKept s t) ∧
    (∃ t, exec .trapIn s = .next t ∧ t.waiting = some .inEcho ∧
      t.output = s.output ++ s.params.inPrompt ∧
      t.readReg 7#3 = s.pc ∧ regsKept [7#3] s t ∧ comingBytes t.input = comingBytes s.input ∧
      t.run = s.run ∧ t.exitStatus = s.exitStatus ∧ t.cond = s.cond ∧ t.pc = s.pc ∧ memKept [] s t ∧ fixedKept s t)

/-- A running core inside GETC or IN, with no abort asserted now: when a byte c is ready, the step
consumes it, IN echoes it, R0 is zext_16(c) and the wait ends; when none is, the core stays inside
the routine and every register, COND, PC, memory, the output, the list of the bytes still to come
and the run state survive unchanged. No instruction is fetched in either case. Steps of a wait are
the model's choice (log 5). (R201, R204, R253, R257.) -/
def Obligations.WaitEndsWhenTheByteComes : Prop :=
  ∀ (s : State) (k : ReadRoutine), s.run = .running → s.abortIn ≠ some 0 → s.waiting = some k →
    (∀ c rest, s.input = .key c :: rest →
      ∃ t, step s = .next t ∧ t.waiting = none ∧ t.readReg 0#3 = zext16 c ∧ regsKept [0#3] s t ∧
        t.input = rest ∧
        t.output = s.output ++ (match k with | .getc => [] | .inEcho => [c]) ∧ t.cond = s.cond ∧
        t.pc = s.pc ∧ memKept [] s t ∧ t.run = .running ∧ t.exitStatus = s.exitStatus ∧ t.ir = s.ir) ∧
    ((∀ c rest, s.input ≠ .key c :: rest) →
      ∃ t, step s = .next t ∧ t.waiting = some k ∧ regsKept [] s t ∧
        comingBytes t.input = comingBytes s.input ∧ t.output = s.output ∧ t.cond = s.cond ∧
        t.pc = s.pc ∧ memKept [] s t ∧ t.run = .running ∧ t.exitStatus = s.exitStatus ∧ t.ir = s.ir)

/-- TRAP 0x21 completes from every state: the console receives the byte R0 mod 256; R7 is pc; R0 to
R6, COND, PC, memory, the input and the run state are unchanged. (R202.) -/
def Obligations.OutWritesTheLowByte : Prop :=
  ∀ s : State, ∃ t, exec .trapOut s = .next t ∧
      t.output = s.output ++ [BitVec.ofNat 8 ((s.readReg 0#3).toNat % 256)] ∧ t.input = s.input ∧
      t.readReg 7#3 = s.pc ∧ regsKept [7#3] s t ∧ runKept s t ∧ t.cond = s.cond ∧ t.pc = s.pc ∧ memKept [] s t ∧ fixedKept s t

/-- TRAP 0x22 in a state where the word n places after the one R0 points at (the pointer wrapping) is
zero and none before it is: the console receives exactly the low bytes of those n words in order,
the terminator not among them; R7 is pc; R0 to R6, COND, PC, memory (no poll at 0xFE00), the input
and the run state are unchanged. (R203, R57, R58.) -/
def Obligations.PutsWritesUpToTheZeroWord : Prop :=
  ∀ (s : State) (n : Nat), n < 65536 → (∀ k, k < n → s.stringWord k ≠ 0x0000#16) →
    s.stringWord n = 0x0000#16 →
    ∃ t, exec .trapPuts s = .next t ∧
      t.output = s.output ++ (List.range n).map (fun k => lowByte (s.stringWord k)) ∧
      t.input = s.input ∧ t.readReg 7#3 = s.pc ∧ regsKept [7#3] s t ∧ runKept s t ∧
      t.cond = s.cond ∧ t.pc = s.pc ∧ memKept [] s t ∧ fixedKept s t

/-- TRAP 0x24. Under ZERO_WORD, with the n-th word from R0 the first zero one: for each word before it
the low byte is written, then the high byte if it is not zero. Under ZERO_BYTE, with the n-th byte
(two a word, low byte first) the first zero one: exactly the n bytes before it are written. In
both, R7 is pc and R0 to R6, COND, PC, memory, the input and the run state are unchanged. (R205,
R57, R58.) -/
def Obligations.PutspWritesPackedCharacters : Prop :=
  ∀ (s : State) (n : Nat),
    (s.params.putspTerm = .zeroWord → n < 65536 → (∀ k, k < n → s.stringWord k ≠ 0x0000#16) →
      s.stringWord n = 0x0000#16 →
      ∃ t, exec .trapPutsp s = .next t ∧
        t.output = s.output ++ (List.range n).flatMap (fun k =>
          lowByte (s.stringWord k) ::
            (if highByte (s.stringWord k) = 0#8 then [] else [highByte (s.stringWord k)])) ∧
        t.input = s.input ∧ t.readReg 7#3 = s.pc ∧ regsKept [7#3] s t ∧ runKept s t ∧
        t.cond = s.cond ∧ t.pc = s.pc ∧ memKept [] s t ∧ fixedKept s t) ∧
    (s.params.putspTerm = .zeroByte → n < 131072 → (∀ j, j < n → s.packedByte j ≠ 0#8) →
      s.packedByte n = 0#8 →
      ∃ t, exec .trapPutsp s = .next t ∧
        t.output = s.output ++ (List.range n).map s.packedByte ∧
        t.input = s.input ∧ t.readReg 7#3 = s.pc ∧ regsKept [7#3] s t ∧ runKept s t ∧
        t.cond = s.cond ∧ t.pc = s.pc ∧ memKept [] s t ∧ fixedKept s t)

/-- PUTS answers a next state if some cell of memory is zero, and the stop stringNeverEnds (the hang
of R203; that it is a stop of the model is log 10) if none is; so does PUTSP under ZERO_WORD;
under ZERO_BYTE it stops so exactly when no byte of memory is zero. (R203, R205.) -/
def Obligations.StringRoutinesEndIfAZeroExists : Prop :=
  ∀ s : State,
    ((∃ a, s.rawRead a = 0x0000#16) → ∃ t, exec .trapPuts s = .next t) ∧
    ((∀ a, s.rawRead a ≠ 0x0000#16) → exec .trapPuts s = .fault .stringNeverEnds) ∧
    (s.params.putspTerm = .zeroWord →
      ((∃ a, s.rawRead a = 0x0000#16) → ∃ t, exec .trapPutsp s = .next t) ∧
      ((∀ a, s.rawRead a ≠ 0x0000#16) → exec .trapPutsp s = .fault .stringNeverEnds)) ∧
    (s.params.putspTerm = .zeroByte →
      ((∃ a, lowByte (s.rawRead a) = 0#8 ∨ highByte (s.rawRead a) = 0#8) →
        ∃ t, exec .trapPutsp s = .next t) ∧
      ((∀ a, lowByte (s.rawRead a) ≠ 0#8 ∧ highByte (s.rawRead a) ≠ 0#8) →
        exec .trapPutsp s = .fault .stringNeverEnds))

/-- TRAP 0x25 completes from every state: HALT_NOTICE is written to the console, R7 is pc, the run
state is Halted and the exit status 0; R0 to R6, COND, PC, memory and the input are unchanged. For
every value of the parameter HALT_NOTICE. (R206.) -/
def Obligations.HaltStopsWithStatusZero : Prop :=
  ∀ s : State, ∃ t, exec .trapHalt s = .next t ∧ t.run = .halted ∧ t.exitStatus = some 0 ∧
      t.output = s.output ++ s.params.haltNotice ∧ t.input = s.input ∧ t.readReg 7#3 = s.pc ∧
      regsKept [7#3] s t ∧ t.waiting = s.waiting ∧ t.cond = s.cond ∧ t.pc = s.pc ∧ memKept [] s t ∧ fixedKept s t

/-- Whenever a TRAP answers a next state: R7 is the old pc; COND, PC, memory and R1 to R6 are
unchanged; R0 is unchanged unless the routine is GETC or IN; the run state is unchanged unless it
is HALT (Halted) or an undefined vector (Faulted). (R208.) -/
def Obligations.TrapsWriteOnlyWhatTheyList : Prop :=
  ∀ (i : Instr) (s t : State), isTrap i = true → exec i s = .next t →
    t.readReg 7#3 = s.pc ∧ t.cond = s.cond ∧ t.pc = s.pc ∧ memKept [] s t ∧
    regsKept [0#3, 7#3] s t ∧
    (i ≠ .trapGetc → i ≠ .trapIn → t.readReg 0#3 = s.readReg 0#3) ∧
    (i ≠ .trapHalt → (∀ v, i ≠ .trapUndefined v) → t.run = s.run ∧ t.exitStatus = s.exitStatus)

/-- When the core runs, is not waiting and takes no abort now, its step is exec of the well-formed
instruction the word read by MemRead(pc) decodes to, in the state that MemRead leaves, with pc + 1
in PC and the word in `ir`; and the host's abort countdown is one shorter (`ir` and the countdown
are the model's own fields, log 7 and log 4). (R274, R24.) -/
def Obligations.StepRunsTheFetchedInstruction : Prop :=
  ∀ (s : State) (i : Instr), s.Ready → i.wellFormed = true → decodeWord (s.memRead s.pc).1 = i →
    step s = exec i { (s.memRead s.pc).2 with
      pc := s.pc + 1#16, ir := (s.memRead s.pc).1, abortIn := s.abortIn.map fun n => n - 1 }

/-- From a state whose run state is Halted, Faulted or Aborted, any number of steps of the machine
gives that very state: no instruction is fetched and nothing changes. The spec gives such a core
no step: that the step answers the same state is the model's choice (log 14). (R33, R244.) -/
def Obligations.TerminalStatesAreNeverLeft : Prop :=
  ∀ (k : Nat) (s : State), s.run ≠ .running → Host.Core.run Sys2Proof.core k s = Host.Outcome.next s

/-- A running core at which the host asserts the abort now, waiting or not: the step enters Aborted
with exit status ABORT_STATUS; every register, PC, COND, memory and the console stay, so what a
waiting routine had done stays and the rest is not performed. (R246.) -/
def Obligations.AbortEndsTheRun : Prop :=
  ∀ s : State, s.run = .running → s.abortIn = some 0 →
    step s = .next { s with run := .aborted, exitStatus := some Config.abortStatus, waiting := none }

/-- State.reset meets the invariant; so does State.boot for every value of the parameters, PC_START,
INIT_REGS and every canonical INIT_MEM. (R26, R33, R37, R39.) -/
def Obligations.InvariantHoldsAtReset : Prop :=
  State.reset.Inv ∧ ∀ (p : Params) (pc : Word) (regs : Vector Word 8) (m : Memory), m.wf = true →
    (State.boot p pc regs m).Inv

/-- For every state s that meets the invariant, if step s answers a next state t, t meets it: the
memory is in canonical form, COND holds exactly one flag, the exit status is the one of the run
state, and a waiting core is running with the return address in R7. (R26, R33, R50, R246.) -/
def Obligations.EveryStepKeepsTheInvariant : Prop :=
  ∀ s t : State, s.Inv → step s = .next t → t.Inv

/-- If step s answers t, then t's output is s's output with bytes appended, s's coming input answers
are some answers used up followed by t's, and the parameters never change. (R209, R253, R254.) -/
def Obligations.ConsoleStreamsKeepTheirOrder : Prop :=
  ∀ s t : State, step s = .next t →
    (∃ bs, t.output = s.output ++ bs) ∧ (∃ used, s.input = used ++ t.input) ∧ t.params = s.params

/-- For every state, step never answers refused; and if it answers a fault, that is stringNeverEnds,
the core was ready, the fetched word is TRAP PUTS or PUTSP, and after the fetch no cell of memory
is zero: arithmetic, addressing and memory never fail. The spec calls that run a hang, not a
fault: that it is a stop is the model's choice (log 10). (R243, R203, R205.) -/
def Obligations.OnlyAnEndlessStringStops : Prop :=
  ∀ s : State, (∀ r, step s ≠ .refused r) ∧
    ∀ r, step s = .fault r → r = .stringNeverEnds ∧ s.Ready ∧
      (decodeWord (s.memRead s.pc).1 = .trapPuts ∨ decodeWord (s.memRead s.pc).1 = .trapPutsp) ∧
      ∀ a, (s.memRead s.pc).2.rawRead a ≠ 0x0000#16

/-- State.boot, for every value of the parameters of R6: PC is PC_START, the registers are INIT_REGS,
memory is as given, COND is 0b010, the run state Running, no exit status, no fault record, empty
output. (R37, R39.) -/
def Obligations.ResetLeavesTheStartState : Prop :=
  ∀ (p : Params) (pc : Word) (regs : Vector Word 8) (m : Memory),
    (State.boot p pc regs m).cond = 0b010#3 ∧ (State.boot p pc regs m).run = .running ∧
    (State.boot p pc regs m).exitStatus = none ∧ (State.boot p pc regs m).faultRecord = none ∧
    (State.boot p pc regs m).output = [] ∧ (State.boot p pc regs m).pc = pc ∧
    (∀ r : RegId, (State.boot p pc regs m).readReg r = regs[r.toNat]'(r.isLt)) ∧
    (∀ a : Word, (State.boot p pc regs m).rawRead a = m.read a.toNat)

/-- For every image of at least two bytes: it loads; with origin {b[0], b[1]}, for every k with 3 + 2k
below its length and origin + k at most 0xFFFF, the cell origin + k holds {b[2+2k], b[3+2k]};
every other cell reads as before. (R271.) -/
def Obligations.LoaderPlacesBigEndianWords : Prop :=
  ∀ (hi lo : Byte) (b : List Byte) (m : Memory),
    ∃ m', loadImage (hi :: lo :: b) m = .ok m' ∧
      (∀ k, 2 * k + 1 < b.length → (hi ++ lo).toNat + k < 65536 →
        m'.read ((hi ++ lo).toNat + k) = (b.getD (2 * k) 0#8 ++ b.getD (2 * k + 1) 0#8 : Word)) ∧
      (∀ a, (∀ k, 2 * k + 1 < b.length → (hi ++ lo).toNat + k < 65536 → a ≠ (hi ++ lo).toNat + k) →
        m'.read a = m.read a)

/-- Start-up with no image stops with exit status 2; with an image shorter than two bytes among the
images it stops with exit status 1; with every image at least two bytes long it ends in State.boot
over the memory that loadImages leaves: each cell holds the word of the last image, in argument
order, that places one there, and INIT_MEM's word if none does; it is canonical if INIT_MEM was.
(R270, R271, R272.) -/
def Obligations.StartUpErrorsAndSuccess : Prop :=
  ∀ (p : Params) (pc : Word) (regs : Vector Word 8) (m : Memory) (images : List (List Byte)),
    (images = [] → ∃ e, startUp p pc regs m images = .error e ∧ configStatus e = 2) ∧
    ((∃ b ∈ images, b.length < 2) →
      ∃ e, startUp p pc regs m images = .error e ∧ configStatus e = 1) ∧
    (images ≠ [] → (∀ b ∈ images, 2 ≤ b.length) →
      ∃ m', startUp p pc regs m images = .ok (State.boot p pc regs m') ∧
        loadImages images m = .ok m' ∧
        (∀ a, m'.read a = (images.reverse.findSome? fun b => imageWord b a).getD (m.read a)) ∧
        (m.wf = true → m'.wf = true))
end

