-- ==== Sys2Proof/Laws/Decode.lean ====
section
/-! SUPPORT. The laws of decoding and encoding: what each field reads, as arithmetic on the word's value,
and the value of each format's word. -/

namespace Sys2Proof

/-- A concatenation as a sum: the law that turns a format into arithmetic. -/
theorem toNat_append_add {n m : Nat} (x : BitVec n) (y : BitVec m) :
    (x ++ y).toNat = x.toNat * 2 ^ m + y.toNat := by
  rw [BitVec.toNat_append, ← Nat.shiftLeft_add_eq_or_of_lt y.isLt, Nat.shiftLeft_eq]

/-- The bits of a concatenation under a mask, part by part. -/
theorem and_append_of {n m : Nat} {a b c : BitVec n} {x y z : BitVec m} (h : a &&& b = c)
    (h' : x &&& y = z) : (a ++ x) &&& (b ++ y) = c ++ z := by rw [BitVec.and_append, h, h']

/-! Fields of a word (R81, R94, R95). -/

theorem extractLsb'_toNat_div (w : Word) (lo len : Nat) :
    (w.extractLsb' lo len).toNat = w.toNat / 2 ^ lo % 2 ^ len := by
  simp [BitVec.extractLsb'_toNat, Nat.shiftRight_eq_div_pow]

theorem opcodeField_toNat (w : Word) : (opcodeField w).toNat = w.toNat / 4096 := by
  have := w.isLt
  have h := extractLsb'_toNat_div w 12 4
  simp only [opcodeField, h]
  omega

theorem regField11_toNat (w : Word) : (regField11 w).toNat = w.toNat / 512 % 8 :=
  extractLsb'_toNat_div w 9 3

theorem regField8_toNat (w : Word) : (regField8 w).toNat = w.toNat / 64 % 8 :=
  extractLsb'_toNat_div w 6 3

theorem regField2_toNat (w : Word) : (regField2 w).toNat = w.toNat % 8 :=
  (extractLsb'_toNat_div w 0 3).trans (by rw [Nat.pow_zero, Nat.div_one]; rfl)

theorem immField5_toNat (w : Word) : (immField5 w).toNat = w.toNat % 32 :=
  (extractLsb'_toNat_div w 0 5).trans (by rw [Nat.pow_zero, Nat.div_one]; rfl)

theorem offField6_toNat (w : Word) : (offField6 w).toNat = w.toNat % 64 :=
  (extractLsb'_toNat_div w 0 6).trans (by rw [Nat.pow_zero, Nat.div_one]; rfl)

theorem offField9_toNat (w : Word) : (offField9 w).toNat = w.toNat % 512 :=
  (extractLsb'_toNat_div w 0 9).trans (by rw [Nat.pow_zero, Nat.div_one]; rfl)

theorem offField11_toNat (w : Word) : (offField11 w).toNat = w.toNat % 2048 :=
  (extractLsb'_toNat_div w 0 11).trans (by rw [Nat.pow_zero, Nat.div_one]; rfl)

theorem vectField8_toNat (w : Word) : (vectField8 w).toNat = w.toNat % 256 :=
  (extractLsb'_toNat_div w 0 8).trans (by rw [Nat.pow_zero, Nat.div_one]; rfl)

theorem getLsbD_eq_div (w : Word) (k : Nat) : w.getLsbD k = decide (w.toNat / 2 ^ k % 2 = 1) := by
  rw [BitVec.getLsbD, Nat.testBit_eq_decide_div_mod_eq]

/-- The opcode map by the field's value (R82). -/
theorem opcodeOfBits_toNat (b : BitVec 4) : opcodeOfBits b =
    [Opcode.br, .add, .ld, .st, .jsr, .and, .ldr, .str, .rti, .not, .ldi, .sti, .jmp, .res, .lea,
      .trap].getD b.toNat .br := by
  revert b; decide

/-- The opcode of a word by its value (R81, R82). -/
theorem opcode_of_div {w : Word} {k : Nat} (h : w.toNat / 4096 = k) :
    opcodeOfBits (opcodeField w) =
      [Opcode.br, .add, .ld, .st, .jsr, .and, .ldr, .str, .rti, .not, .ldi, .sti, .jmp, .res, .lea,
        .trap].getD k .br := by
  rw [opcodeOfBits_toNat, opcodeField_toNat, h]

theorem condField_toNat (n z p : Bool) :
    (condField n z p).toNat = n.toNat * 4 + z.toNat * 2 + p.toNat := by
  cases n <;> cases z <;> cases p <;> rfl

theorem trapWord_toNat (v : Byte) : (trapWord v).toNat = 0xF000 + v.toNat := by
  unfold trapWord
  repeat rw [toNat_append_add]
  simp

/-! The words of the formats under the masks of the opcode table (R83 to R93). -/

theorem word_pcRel_mask (op : BitVec 4) (r : BitVec 3) (off : BitVec 9) :
    (op ++ r ++ off : Word) &&& (0xF#4 ++ 0#3 ++ 0#9 : Word) = op ++ 0#3 ++ 0#9 :=
  and_append_of (and_append_of (by revert op; decide) BitVec.and_zero) BitVec.and_zero

theorem word_base_mask (op : BitVec 4) (r q : BitVec 3) (off : BitVec 6) :
    (op ++ r ++ q ++ off : Word) &&& (0xF#4 ++ 0#3 ++ 0#3 ++ 0#6 : Word) = op ++ 0#3 ++ 0#3 ++ 0#6 :=
  and_append_of (and_append_of (and_append_of (by revert op; decide) BitVec.and_zero)
    BitVec.and_zero) BitVec.and_zero

theorem word_operate_mask (op : BitVec 4) (r q x : BitVec 3) :
    (op ++ r ++ q ++ 0b000#3 ++ x : Word) &&& (0xF#4 ++ 0#3 ++ 0#3 ++ 0b100#3 ++ 0#3 : Word) =
      op ++ 0#3 ++ 0#3 ++ 0#3 ++ 0#3 :=
  and_append_of (and_append_of (and_append_of (and_append_of (by revert op; decide) BitVec.and_zero)
    BitVec.and_zero) rfl) BitVec.and_zero

theorem word_immediate_mask (op : BitVec 4) (r q : BitVec 3) (imm : BitVec 5) :
    (op ++ r ++ q ++ 0b1#1 ++ imm : Word) &&& (0xF#4 ++ 0#3 ++ 0#3 ++ 0b1#1 ++ 0#5 : Word) =
      op ++ 0#3 ++ 0#3 ++ 0b1#1 ++ 0#5 :=
  and_append_of (and_append_of (and_append_of (and_append_of (by revert op; decide) BitVec.and_zero)
    BitVec.and_zero) rfl) BitVec.and_zero

theorem word_jsr_mask (off : BitVec 11) :
    (0x4#4 ++ 0b1#1 ++ off : Word) &&& (0xF#4 ++ 0b1#1 ++ 0#11 : Word) = 0x4#4 ++ 0b1#1 ++ 0#11 :=
  and_append_of (and_append_of rfl rfl) BitVec.and_zero

theorem word_jsrr_mask (r : BitVec 3) :
    (0x4#4 ++ 0b000#3 ++ r ++ 0#6 : Word) &&& (0xF#4 ++ 0b100#3 ++ 0#3 ++ 0#6 : Word) =
      0x4#4 ++ 0#3 ++ 0#3 ++ 0#6 :=
  and_append_of (and_append_of (and_append_of rfl rfl) BitVec.and_zero) BitVec.and_zero

theorem word_trap_mask (v : Byte) :
    (0xF#4 ++ 0#4 ++ v : Word) &&& (0xF#4 ++ 0#4 ++ 0#8 : Word) = 0xF#4 ++ 0#4 ++ 0#8 :=
  and_append_of (and_append_of rfl rfl) BitVec.and_zero

/-- The vector of a TRAP word is the one it was written with (R92). -/
theorem vectField8_trapWord (v : Byte) : vectField8 (trapWord v) = v := by
  apply BitVec.eq_of_toNat_eq
  have := v.isLt
  rw [vectField8_toNat, trapWord_toNat]
  omega

/-- A word whose bits under a row's mask are its pattern is of that row (any row but the last). -/
theorem rowCovers_of {k : Nat} {w : Word} {r : OpcodeRow} (hr : opcodeTable[k]? = some r)
    (hk : k ≠ 24) (h : w &&& r.mask = r.pattern) : rowCovers k w = true := by
  simp [rowCovers, hr, h, hk]

end Sys2Proof
end

