-- ==== Sys2Proof/Laws/Memory.lean ====
section
/-! SUPPORT. The laws of the memory array: read after write, the canonical form, and that canonical
memories which read alike are equal. -/

namespace Sys2Proof.Machine

@[simp] theorem Memory.read_nil (a : Nat) : Memory.read [] a = Memory.unlisted a := rfl

theorem Memory.read_erase_same (m : Memory) (a : Nat) : (m.erase a).read a = Memory.unlisted a := by
  induction m with
  | nil => rfl
  | cons c m ih =>
    obtain ⟨b, w⟩ := c
    by_cases h : b = a
    · simpa [Memory.erase, h] using ih
    · simpa [Memory.erase, Memory.read, h, Ne.symm h] using ih

theorem Memory.read_erase_other {a b : Nat} (h : b ≠ a) (m : Memory) :
    (m.erase a).read b = m.read b := by
  induction m with
  | nil => rfl
  | cons c m ih =>
    obtain ⟨x, w⟩ := c
    by_cases hx : x = a
    · subst hx; simpa [Memory.erase, Memory.read, h] using ih
    · simp [Memory.erase, Memory.read, hx, ih]

theorem Memory.read_insert_same {m : Memory} {a : Nat} (h : ∀ c ∈ m, c.1 ≠ a) (v : Word) :
    (m.insert a v).read a = v := by
  induction m with
  | nil => simp [Memory.insert, Memory.read]
  | cons c m ih =>
    obtain ⟨b, w⟩ := c
    have hb : b ≠ a := h (b, w) (by simp)
    have ih := ih fun c hc => h c (by simp [hc])
    by_cases hab : a < b
    · simp [Memory.insert, Memory.read, hab]
    · simpa [Memory.insert, Memory.read, hab, Ne.symm hb] using ih

theorem Memory.read_insert_other {a b : Nat} (h : b ≠ a) (m : Memory) (v : Word) :
    (m.insert a v).read b = m.read b := by
  induction m with
  | nil => simp [Memory.insert, Memory.read, h]
  | cons c m ih =>
    obtain ⟨x, w⟩ := c
    by_cases hax : a < x
    · simp [Memory.insert, Memory.read, hax, h]
    · simp [Memory.insert, Memory.read, hax, ih]

theorem Memory.erase_ne {m : Memory} {a : Nat} : ∀ c ∈ m.erase a, c.1 ≠ a := by
  induction m with
  | nil => intro c hc; cases hc
  | cons c m ih =>
    obtain ⟨b, w⟩ := c
    by_cases h : b = a
    · simpa [Memory.erase, h] using ih
    · simpa [Memory.erase, h] using ih

/-- Reading the cell just written gives the word written (R56, R65). -/
theorem Memory.read_write_same (m : Memory) (a : Nat) (v : Word) : (m.write a v).read a = v := by
  unfold Memory.write
  split
  · rename_i h; rw [Memory.read_erase_same, h]
  · exact Memory.read_insert_same Memory.erase_ne v

/-- A write leaves every other cell as it was (R56). -/
theorem Memory.read_write_other {a b : Nat} (h : b ≠ a) (m : Memory) (v : Word) :
    (m.write a v).read b = m.read b := by
  unfold Memory.write
  split
  · exact Memory.read_erase_other h m
  · rw [Memory.read_insert_other h, Memory.read_erase_other h]

theorem Memory.read_write (m : Memory) (a b : Nat) (v : Word) :
    (m.write a v).read b = if b = a then v else m.read b := by
  split
  · rename_i h; rw [h, Memory.read_write_same]
  · rename_i h; exact Memory.read_write_other h m v

theorem Memory.erase_of_ne {m : Memory} {a : Nat} (h : ∀ c ∈ m, c.1 ≠ a) : m.erase a = m := by
  induction m with
  | nil => rfl
  | cons c m ih =>
    have hb : c.1 ≠ a := h c (by simp)
    simp [Memory.erase, hb, ih fun c hc => h c (by simp [hc])]

theorem Memory.erase_insert {m : Memory} {a : Nat} (h : ∀ c ∈ m, c.1 ≠ a) (v : Word) :
    (m.insert a v).erase a = m := by
  induction m with
  | nil => simp [Memory.insert, Memory.erase]
  | cons c m ih =>
    obtain ⟨b, w⟩ := c
    have hb : b ≠ a := h (b, w) (by simp)
    have hm : ∀ c ∈ m, c.1 ≠ a := fun c hc => h c (by simp [hc])
    by_cases hab : a < b
    · simp [Memory.insert, Memory.erase, hab, hb, Memory.erase_of_ne hm]
    · simp [Memory.insert, Memory.erase, hab, hb, ih hm]

/-- The last of two writes to a cell wins, whatever the first wrote. -/
theorem Memory.write_write (m : Memory) (a : Nat) (v w : Word) :
    (m.write a v).write a w = m.write a w := by
  have h : (m.write a v).erase a = m.erase a := by
    unfold Memory.write
    split
    · exact Memory.erase_of_ne Memory.erase_ne
    · exact Memory.erase_insert Memory.erase_ne v
  simp [Memory.write.eq_1 (m.write a v), Memory.write.eq_1 m a w, h]

theorem Memory.wfFrom_mono {lo lo' : Nat} (h : lo ≤ lo') :
    ∀ {m : Memory}, Memory.wfFrom lo' m = true → Memory.wfFrom lo m = true
  | [], _ => rfl
  | (a, v) :: m, hm => by
    simp only [Memory.wfFrom, Bool.and_eq_true, decide_eq_true_eq] at hm ⊢
    exact ⟨⟨⟨Nat.le_trans h hm.1.1.1, hm.1.1.2⟩, hm.1.2⟩, hm.2⟩

theorem Memory.wfFrom_erase (a : Nat) :
    ∀ {lo : Nat} {m : Memory}, Memory.wfFrom lo m = true → Memory.wfFrom lo (m.erase a) = true
  | _, [], _ => rfl
  | lo, (b, w) :: m, hm => by
    simp only [Memory.wfFrom, Bool.and_eq_true, decide_eq_true_eq] at hm
    have ih := Memory.wfFrom_erase a hm.2
    by_cases h : b = a
    · simpa [Memory.erase, h] using
        Memory.wfFrom_mono (Nat.le_succ_of_le (h ▸ hm.1.1.1)) (h ▸ ih)
    · simp [Memory.erase, h, Memory.wfFrom, hm.1, ih]

theorem Memory.wfFrom_insert {a : Nat} {v : Word} (ha : a < memCells) (hv : v ≠ Memory.unlisted a) :
    ∀ {lo : Nat} {m : Memory}, lo ≤ a → (∀ c ∈ m, c.1 ≠ a) → Memory.wfFrom lo m = true →
      Memory.wfFrom lo (m.insert a v) = true
  | lo, [], hlo, _, _ => by simp [Memory.insert, Memory.wfFrom, hlo, ha, hv]
  | lo, (b, w) :: m, hlo, hne, hm => by
    have hb : b ≠ a := hne (b, w) (by simp)
    simp only [Memory.wfFrom, Bool.and_eq_true, decide_eq_true_eq] at hm
    by_cases hab : a < b
    · simp [Memory.insert, Memory.wfFrom, hab, hlo, ha, hv, hm.1.1.2, hm.1.2, hm.2]
    · have ih := Memory.wfFrom_insert ha hv (by omega : b + 1 ≤ a)
        (fun c hc => hne c (by simp [hc])) hm.2
      simp [Memory.insert, Memory.wfFrom, hab, hm.1.1.1, hm.1.1.2, hm.1.2, ih]

/-- A write of any word at any of the 65,536 addresses keeps the canonical form. -/
theorem Memory.wf_write {m : Memory} {a : Nat} (h : m.wf = true) (ha : a < memCells) (v : Word) :
    (m.write a v).wf = true := by
  unfold Memory.write
  split
  · exact Memory.wfFrom_erase a h
  · rename_i hv
    exact Memory.wfFrom_insert ha hv (Nat.zero_le a) Memory.erase_ne (Memory.wfFrom_erase a h)

theorem Memory.read_of_wfFrom :
    ∀ {lo : Nat} {m : Memory}, Memory.wfFrom lo m = true → ∀ {a : Nat}, a < lo →
      m.read a = Memory.unlisted a
  | _, [], _, _, _ => rfl
  | lo, (b, w) :: m, hm, a, ha => by
    simp only [Memory.wfFrom, Bool.and_eq_true, decide_eq_true_eq] at hm
    have hab : a ≠ b := by omega
    simp [Memory.read, hab, Memory.read_of_wfFrom hm.2 (by omega : a < b + 1)]

/-- Canonical memories that read alike everywhere are the same list. -/
theorem Memory.ext_of_wfFrom :
    ∀ {lo : Nat} {m m' : Memory}, Memory.wfFrom lo m = true → Memory.wfFrom lo m' = true →
      (∀ a, m.read a = m'.read a) → m = m'
  | _, [], [], _, _, _ => rfl
  | lo, [], (b, w) :: m', _, hm', h => by
    simp only [Memory.wfFrom, Bool.and_eq_true, decide_eq_true_eq] at hm'
    exact absurd (by simpa [Memory.read] using (h b).symm) hm'.1.2
  | lo, (b, w) :: m, [], hm, _, h => by
    simp only [Memory.wfFrom, Bool.and_eq_true, decide_eq_true_eq] at hm
    exact absurd (by simpa [Memory.read] using h b) hm.1.2
  | lo, (b, w) :: m, (c, x) :: m', hm, hm', h => by
    have hm0 := hm
    have hm0' := hm'
    simp only [Memory.wfFrom, Bool.and_eq_true, decide_eq_true_eq] at hm hm'
    have hbc : b = c := by
      rcases Nat.lt_trichotomy b c with hlt | heq | hgt
      · have h1 := h b
        have h2 : Memory.read ((c, x) :: m') b = Memory.unlisted b := by
          have hne : b ≠ c := by omega
          simp [Memory.read, hne, Memory.read_of_wfFrom hm'.2 (by omega : b < c + 1)]
        rw [h2] at h1
        exact absurd (by simpa [Memory.read] using h1) hm.1.2
      · exact heq
      · have h1 := h c
        have h2 : Memory.read ((b, w) :: m) c = Memory.unlisted c := by
          have hne : c ≠ b := by omega
          simp [Memory.read, hne, Memory.read_of_wfFrom hm.2 (by omega : c < b + 1)]
        rw [h2] at h1
        exact absurd (by simpa [Memory.read] using h1.symm) hm'.1.2
    subst hbc
    have hwx : w = x := by simpa [Memory.read] using h b
    have hrest : ∀ a, Memory.read m a = Memory.read m' a := by
      intro a
      by_cases ha : a = b
      · subst ha
        rw [Memory.read_of_wfFrom hm.2 (Nat.lt_succ_self a),
          Memory.read_of_wfFrom hm'.2 (Nat.lt_succ_self a)]
      · simpa [Memory.read, ha] using h a
    rw [hwx, Memory.ext_of_wfFrom hm.2 hm'.2 hrest]

theorem Memory.ext_of_wf {m m' : Memory} (h : m.wf = true) (h' : m'.wf = true)
    (hr : ∀ a, m.read a = m'.read a) : m = m' := Memory.ext_of_wfFrom h h' hr

end Sys2Proof.Machine
end

