-- ==== Sys2Proof/Laws/Loader.lean ====
section
/-! SUPPORT. The laws of the loader port. -/

namespace Sys2Proof.Machine

/-- Loading an image's words keeps the memory canonical. -/
theorem loadWords_wf : ∀ (b : List Byte) (a : Nat) {m : Memory}, m.wf = true →
    (loadWords b a m).wf = true
  | [], _, _, h => h
  | [_], _, _, h => h
  | hi :: lo :: rest, a, m, h => by
    rw [loadWords]
    split
    · rename_i ha; exact loadWords_wf rest (a + 1) (Memory.wf_write h ha _)
    · exact h

/-- What loading an image does: it has no origin word and fails, or its words are loaded (R271). -/
theorem loadImage_cases (b : List Byte) (m : Memory) :
    (b.length < 2 ∧ loadImage b m = .error .imageFailed) ∨
    (∃ hi lo rest, b = hi :: lo :: rest ∧
      loadImage b m = .ok (loadWords rest (beWord hi lo).toNat m)) :=
  match b with
  | [] => .inl ⟨by decide, rfl⟩
  | [_] => .inl ⟨by simp, rfl⟩
  | hi :: lo :: rest => .inr ⟨hi, lo, rest, rfl, rfl⟩

end Sys2Proof.Machine
end

