-- ==== Sys2Proof/Laws/State.lean ====
section
/-! SUPPORT. The small laws of State: what each named update does to each field, to each register and to
each cell of memory. -/

namespace Sys2Proof.Machine

/-! One lemma per field per update. -/

@[simp] theorem State.writeReg_regs (s : State) (r : RegId) (v : Word) :
    (s.writeReg r v).regs = s.regs.set r.toNat v (r.isLt) := rfl
@[simp] theorem State.writeReg_pc (s : State) (r : RegId) (v : Word) :
    (s.writeReg r v).pc = s.pc := rfl
@[simp] theorem State.writeReg_cond (s : State) (r : RegId) (v : Word) :
    (s.writeReg r v).cond = s.cond := rfl
@[simp] theorem State.writeReg_mem (s : State) (r : RegId) (v : Word) :
    (s.writeReg r v).mem = s.mem := rfl
@[simp] theorem State.writeReg_run (s : State) (r : RegId) (v : Word) :
    (s.writeReg r v).run = s.run := rfl
@[simp] theorem State.writeReg_exitStatus (s : State) (r : RegId) (v : Word) :
    (s.writeReg r v).exitStatus = s.exitStatus := rfl
@[simp] theorem State.writeReg_input (s : State) (r : RegId) (v : Word) :
    (s.writeReg r v).input = s.input := rfl
@[simp] theorem State.writeReg_output (s : State) (r : RegId) (v : Word) :
    (s.writeReg r v).output = s.output := rfl
@[simp] theorem State.writeReg_waiting (s : State) (r : RegId) (v : Word) :
    (s.writeReg r v).waiting = s.waiting := rfl
@[simp] theorem State.writeReg_ir (s : State) (r : RegId) (v : Word) :
    (s.writeReg r v).ir = s.ir := rfl
@[simp] theorem State.writeReg_abortIn (s : State) (r : RegId) (v : Word) :
    (s.writeReg r v).abortIn = s.abortIn := rfl
@[simp] theorem State.writeReg_params (s : State) (r : RegId) (v : Word) :
    (s.writeReg r v).params = s.params := rfl

@[simp] theorem State.setPc_regs (s : State) (a : Word) : (s.setPc a).regs = s.regs := rfl
@[simp] theorem State.setPc_pc (s : State) (a : Word) : (s.setPc a).pc = a := rfl
@[simp] theorem State.setPc_cond (s : State) (a : Word) : (s.setPc a).cond = s.cond := rfl
@[simp] theorem State.setPc_mem (s : State) (a : Word) : (s.setPc a).mem = s.mem := rfl
@[simp] theorem State.setPc_run (s : State) (a : Word) : (s.setPc a).run = s.run := rfl
@[simp] theorem State.setPc_exitStatus (s : State) (a : Word) :
    (s.setPc a).exitStatus = s.exitStatus := rfl
@[simp] theorem State.setPc_input (s : State) (a : Word) : (s.setPc a).input = s.input := rfl
@[simp] theorem State.setPc_output (s : State) (a : Word) : (s.setPc a).output = s.output := rfl
@[simp] theorem State.setPc_waiting (s : State) (a : Word) : (s.setPc a).waiting = s.waiting := rfl
@[simp] theorem State.setPc_ir (s : State) (a : Word) : (s.setPc a).ir = s.ir := rfl
@[simp] theorem State.setPc_abortIn (s : State) (a : Word) : (s.setPc a).abortIn = s.abortIn := rfl
@[simp] theorem State.setPc_params (s : State) (a : Word) : (s.setPc a).params = s.params := rfl

@[simp] theorem State.setcc_regs (s : State) (v : Word) : (s.setcc v).regs = s.regs := rfl
@[simp] theorem State.setcc_pc (s : State) (v : Word) : (s.setcc v).pc = s.pc := rfl
@[simp] theorem State.setcc_cond (s : State) (v : Word) : (s.setcc v).cond = condOf v := rfl
@[simp] theorem State.setcc_mem (s : State) (v : Word) : (s.setcc v).mem = s.mem := rfl
@[simp] theorem State.setcc_run (s : State) (v : Word) : (s.setcc v).run = s.run := rfl
@[simp] theorem State.setcc_exitStatus (s : State) (v : Word) :
    (s.setcc v).exitStatus = s.exitStatus := rfl
@[simp] theorem State.setcc_input (s : State) (v : Word) : (s.setcc v).input = s.input := rfl
@[simp] theorem State.setcc_output (s : State) (v : Word) : (s.setcc v).output = s.output := rfl
@[simp] theorem State.setcc_waiting (s : State) (v : Word) : (s.setcc v).waiting = s.waiting := rfl
@[simp] theorem State.setcc_ir (s : State) (v : Word) : (s.setcc v).ir = s.ir := rfl
@[simp] theorem State.setcc_abortIn (s : State) (v : Word) : (s.setcc v).abortIn = s.abortIn := rfl
@[simp] theorem State.setcc_params (s : State) (v : Word) : (s.setcc v).params = s.params := rfl

@[simp] theorem State.writeResult_regs (s : State) (r : RegId) (v : Word) :
    (s.writeResult r v).regs = (s.writeReg r v).regs := rfl
@[simp] theorem State.writeResult_pc (s : State) (r : RegId) (v : Word) :
    (s.writeResult r v).pc = s.pc := rfl
@[simp] theorem State.writeResult_cond (s : State) (r : RegId) (v : Word) :
    (s.writeResult r v).cond = condOf v := rfl
@[simp] theorem State.writeResult_mem (s : State) (r : RegId) (v : Word) :
    (s.writeResult r v).mem = s.mem := rfl
@[simp] theorem State.writeResult_run (s : State) (r : RegId) (v : Word) :
    (s.writeResult r v).run = s.run := rfl
@[simp] theorem State.writeResult_exitStatus (s : State) (r : RegId) (v : Word) :
    (s.writeResult r v).exitStatus = s.exitStatus := rfl
@[simp] theorem State.writeResult_input (s : State) (r : RegId) (v : Word) :
    (s.writeResult r v).input = s.input := rfl
@[simp] theorem State.writeResult_output (s : State) (r : RegId) (v : Word) :
    (s.writeResult r v).output = s.output := rfl
@[simp] theorem State.writeResult_waiting (s : State) (r : RegId) (v : Word) :
    (s.writeResult r v).waiting = s.waiting := rfl
@[simp] theorem State.writeResult_ir (s : State) (r : RegId) (v : Word) :
    (s.writeResult r v).ir = s.ir := rfl
@[simp] theorem State.writeResult_abortIn (s : State) (r : RegId) (v : Word) :
    (s.writeResult r v).abortIn = s.abortIn := rfl
@[simp] theorem State.writeResult_params (s : State) (r : RegId) (v : Word) :
    (s.writeResult r v).params = s.params := rfl

@[simp] theorem State.link_regs (s : State) : s.link.regs = (s.writeReg reg7 s.pc).regs := rfl
@[simp] theorem State.link_pc (s : State) : s.link.pc = s.pc := rfl
@[simp] theorem State.link_cond (s : State) : s.link.cond = s.cond := rfl
@[simp] theorem State.link_mem (s : State) : s.link.mem = s.mem := rfl
@[simp] theorem State.link_run (s : State) : s.link.run = s.run := rfl
@[simp] theorem State.link_exitStatus (s : State) : s.link.exitStatus = s.exitStatus := rfl
@[simp] theorem State.link_input (s : State) : s.link.input = s.input := rfl
@[simp] theorem State.link_output (s : State) : s.link.output = s.output := rfl
@[simp] theorem State.link_waiting (s : State) : s.link.waiting = s.waiting := rfl
@[simp] theorem State.link_ir (s : State) : s.link.ir = s.ir := rfl
@[simp] theorem State.link_abortIn (s : State) : s.link.abortIn = s.abortIn := rfl
@[simp] theorem State.link_params (s : State) : s.link.params = s.params := rfl

@[simp] theorem State.memWrite_regs (s : State) (a v : Word) : (s.memWrite a v).regs = s.regs := rfl
@[simp] theorem State.memWrite_pc (s : State) (a v : Word) : (s.memWrite a v).pc = s.pc := rfl
@[simp] theorem State.memWrite_cond (s : State) (a v : Word) : (s.memWrite a v).cond = s.cond := rfl
@[simp] theorem State.memWrite_mem (s : State) (a v : Word) :
    (s.memWrite a v).mem = s.mem.write a.toNat v := rfl
@[simp] theorem State.memWrite_run (s : State) (a v : Word) : (s.memWrite a v).run = s.run := rfl
@[simp] theorem State.memWrite_exitStatus (s : State) (a v : Word) :
    (s.memWrite a v).exitStatus = s.exitStatus := rfl
@[simp] theorem State.memWrite_input (s : State) (a v : Word) :
    (s.memWrite a v).input = s.input := rfl
@[simp] theorem State.memWrite_output (s : State) (a v : Word) :
    (s.memWrite a v).output = s.output := rfl
@[simp] theorem State.memWrite_waiting (s : State) (a v : Word) :
    (s.memWrite a v).waiting = s.waiting := rfl
@[simp] theorem State.memWrite_ir (s : State) (a v : Word) : (s.memWrite a v).ir = s.ir := rfl
@[simp] theorem State.memWrite_abortIn (s : State) (a v : Word) :
    (s.memWrite a v).abortIn = s.abortIn := rfl
@[simp] theorem State.memWrite_params (s : State) (a v : Word) :
    (s.memWrite a v).params = s.params := rfl

@[simp] theorem State.writeChars_regs (s : State) (bs : List Byte) :
    (s.writeChars bs).regs = s.regs := rfl
@[simp] theorem State.writeChars_pc (s : State) (bs : List Byte) :
    (s.writeChars bs).pc = s.pc := rfl
@[simp] theorem State.writeChars_cond (s : State) (bs : List Byte) :
    (s.writeChars bs).cond = s.cond := rfl
@[simp] theorem State.writeChars_mem (s : State) (bs : List Byte) :
    (s.writeChars bs).mem = s.mem := rfl
@[simp] theorem State.writeChars_run (s : State) (bs : List Byte) :
    (s.writeChars bs).run = s.run := rfl
@[simp] theorem State.writeChars_exitStatus (s : State) (bs : List Byte) :
    (s.writeChars bs).exitStatus = s.exitStatus := rfl
@[simp] theorem State.writeChars_input (s : State) (bs : List Byte) :
    (s.writeChars bs).input = s.input := rfl
@[simp] theorem State.writeChars_output (s : State) (bs : List Byte) :
    (s.writeChars bs).output = s.output ++ bs := rfl
@[simp] theorem State.writeChars_waiting (s : State) (bs : List Byte) :
    (s.writeChars bs).waiting = s.waiting := rfl
@[simp] theorem State.writeChars_ir (s : State) (bs : List Byte) :
    (s.writeChars bs).ir = s.ir := rfl
@[simp] theorem State.writeChars_abortIn (s : State) (bs : List Byte) :
    (s.writeChars bs).abortIn = s.abortIn := rfl
@[simp] theorem State.writeChars_params (s : State) (bs : List Byte) :
    (s.writeChars bs).params = s.params := rfl

@[simp] theorem State.raiseFault_regs (s : State) (c : FaultCause) :
    (s.raiseFault c).regs = s.regs := rfl
@[simp] theorem State.raiseFault_pc (s : State) (c : FaultCause) : (s.raiseFault c).pc = s.pc := rfl
@[simp] theorem State.raiseFault_cond (s : State) (c : FaultCause) :
    (s.raiseFault c).cond = s.cond := rfl
@[simp] theorem State.raiseFault_mem (s : State) (c : FaultCause) :
    (s.raiseFault c).mem = s.mem := rfl
@[simp] theorem State.raiseFault_run (s : State) (c : FaultCause) :
    (s.raiseFault c).run = .faulted { cause := c, instr := s.ir, addr := s.pc - 1#16 } := rfl
@[simp] theorem State.raiseFault_exitStatus (s : State) (c : FaultCause) :
    (s.raiseFault c).exitStatus = some 1 := rfl
@[simp] theorem State.raiseFault_input (s : State) (c : FaultCause) :
    (s.raiseFault c).input = s.input := rfl
@[simp] theorem State.raiseFault_output (s : State) (c : FaultCause) :
    (s.raiseFault c).output = s.output := rfl
@[simp] theorem State.raiseFault_waiting (s : State) (c : FaultCause) :
    (s.raiseFault c).waiting = s.waiting := rfl
@[simp] theorem State.raiseFault_ir (s : State) (c : FaultCause) : (s.raiseFault c).ir = s.ir := rfl
@[simp] theorem State.raiseFault_abortIn (s : State) (c : FaultCause) :
    (s.raiseFault c).abortIn = s.abortIn := rfl
@[simp] theorem State.raiseFault_params (s : State) (c : FaultCause) :
    (s.raiseFault c).params = s.params := rfl

@[simp] theorem State.halt_regs (s : State) : s.halt.regs = s.regs := rfl
@[simp] theorem State.halt_pc (s : State) : s.halt.pc = s.pc := rfl
@[simp] theorem State.halt_cond (s : State) : s.halt.cond = s.cond := rfl
@[simp] theorem State.halt_mem (s : State) : s.halt.mem = s.mem := rfl
@[simp] theorem State.halt_run (s : State) : s.halt.run = .halted := rfl
@[simp] theorem State.halt_exitStatus (s : State) : s.halt.exitStatus = some 0 := rfl
@[simp] theorem State.halt_input (s : State) : s.halt.input = s.input := rfl
@[simp] theorem State.halt_output (s : State) : s.halt.output = s.output := rfl
@[simp] theorem State.halt_waiting (s : State) : s.halt.waiting = s.waiting := rfl
@[simp] theorem State.halt_ir (s : State) : s.halt.ir = s.ir := rfl
@[simp] theorem State.halt_abortIn (s : State) : s.halt.abortIn = s.abortIn := rfl
@[simp] theorem State.halt_params (s : State) : s.halt.params = s.params := rfl

@[simp] theorem State.takeAbort_regs (s : State) : s.takeAbort.regs = s.regs := rfl
@[simp] theorem State.takeAbort_pc (s : State) : s.takeAbort.pc = s.pc := rfl
@[simp] theorem State.takeAbort_cond (s : State) : s.takeAbort.cond = s.cond := rfl
@[simp] theorem State.takeAbort_mem (s : State) : s.takeAbort.mem = s.mem := rfl
@[simp] theorem State.takeAbort_run (s : State) : s.takeAbort.run = .aborted := rfl
@[simp] theorem State.takeAbort_exitStatus (s : State) :
    s.takeAbort.exitStatus = some Config.abortStatus := rfl
@[simp] theorem State.takeAbort_input (s : State) : s.takeAbort.input = s.input := rfl
@[simp] theorem State.takeAbort_output (s : State) : s.takeAbort.output = s.output := rfl
@[simp] theorem State.takeAbort_waiting (s : State) : s.takeAbort.waiting = none := rfl
@[simp] theorem State.takeAbort_ir (s : State) : s.takeAbort.ir = s.ir := rfl
@[simp] theorem State.takeAbort_abortIn (s : State) : s.takeAbort.abortIn = s.abortIn := rfl
@[simp] theorem State.takeAbort_params (s : State) : s.takeAbort.params = s.params := rfl

@[simp] theorem State.tickAbort_regs (s : State) : s.tickAbort.regs = s.regs := rfl
@[simp] theorem State.tickAbort_pc (s : State) : s.tickAbort.pc = s.pc := rfl
@[simp] theorem State.tickAbort_cond (s : State) : s.tickAbort.cond = s.cond := rfl
@[simp] theorem State.tickAbort_mem (s : State) : s.tickAbort.mem = s.mem := rfl
@[simp] theorem State.tickAbort_run (s : State) : s.tickAbort.run = s.run := rfl
@[simp] theorem State.tickAbort_exitStatus (s : State) :
    s.tickAbort.exitStatus = s.exitStatus := rfl
@[simp] theorem State.tickAbort_input (s : State) : s.tickAbort.input = s.input := rfl
@[simp] theorem State.tickAbort_output (s : State) : s.tickAbort.output = s.output := rfl
@[simp] theorem State.tickAbort_waiting (s : State) : s.tickAbort.waiting = s.waiting := rfl
@[simp] theorem State.tickAbort_ir (s : State) : s.tickAbort.ir = s.ir := rfl
@[simp] theorem State.tickAbort_abortIn (s : State) :
    s.tickAbort.abortIn = s.abortIn.map fun n => n - 1 := rfl
@[simp] theorem State.tickAbort_params (s : State) : s.tickAbort.params = s.params := rfl

/-! The updates that split on the console's input or on the address. -/

@[simp] theorem State.kbPoll_regs (s : State) : s.kbPoll.regs = s.regs := by
  unfold State.kbPoll; split <;> rfl
@[simp] theorem State.kbPoll_pc (s : State) : s.kbPoll.pc = s.pc := by
  unfold State.kbPoll; split <;> rfl
@[simp] theorem State.kbPoll_cond (s : State) : s.kbPoll.cond = s.cond := by
  unfold State.kbPoll; split <;> rfl
@[simp] theorem State.kbPoll_run (s : State) : s.kbPoll.run = s.run := by
  unfold State.kbPoll; split <;> rfl
@[simp] theorem State.kbPoll_exitStatus (s : State) : s.kbPoll.exitStatus = s.exitStatus := by
  unfold State.kbPoll; split <;> rfl
@[simp] theorem State.kbPoll_output (s : State) : s.kbPoll.output = s.output := by
  unfold State.kbPoll; split <;> rfl
@[simp] theorem State.kbPoll_waiting (s : State) : s.kbPoll.waiting = s.waiting := by
  unfold State.kbPoll; split <;> rfl
@[simp] theorem State.kbPoll_ir (s : State) : s.kbPoll.ir = s.ir := by
  unfold State.kbPoll; split <;> rfl
@[simp] theorem State.kbPoll_abortIn (s : State) : s.kbPoll.abortIn = s.abortIn := by
  unfold State.kbPoll; split <;> rfl
@[simp] theorem State.kbPoll_params (s : State) : s.kbPoll.params = s.params := by
  unfold State.kbPoll; split <;> rfl

@[simp] theorem State.readEffect_regs (s : State) (a : Word) : (s.readEffect a).regs = s.regs := by
  unfold State.readEffect; split <;> simp
@[simp] theorem State.readEffect_pc (s : State) (a : Word) : (s.readEffect a).pc = s.pc := by
  unfold State.readEffect; split <;> simp
@[simp] theorem State.readEffect_cond (s : State) (a : Word) : (s.readEffect a).cond = s.cond := by
  unfold State.readEffect; split <;> simp
@[simp] theorem State.readEffect_run (s : State) (a : Word) : (s.readEffect a).run = s.run := by
  unfold State.readEffect; split <;> simp
@[simp] theorem State.readEffect_exitStatus (s : State) (a : Word) : (s.readEffect a).exitStatus = s.exitStatus := by
  unfold State.readEffect; split <;> simp
@[simp] theorem State.readEffect_output (s : State) (a : Word) : (s.readEffect a).output = s.output := by
  unfold State.readEffect; split <;> simp
@[simp] theorem State.readEffect_waiting (s : State) (a : Word) : (s.readEffect a).waiting = s.waiting := by
  unfold State.readEffect; split <;> simp
@[simp] theorem State.readEffect_ir (s : State) (a : Word) : (s.readEffect a).ir = s.ir := by
  unfold State.readEffect; split <;> simp
@[simp] theorem State.readEffect_abortIn (s : State) (a : Word) : (s.readEffect a).abortIn = s.abortIn := by
  unfold State.readEffect; split <;> simp
@[simp] theorem State.readEffect_params (s : State) (a : Word) : (s.readEffect a).params = s.params := by
  unfold State.readEffect; split <;> simp

@[simp] theorem State.finishRead_pc (s : State) (r : ReadRoutine) (b : Byte) : (s.finishRead r b).pc = s.pc := by
  cases r <;> rfl
@[simp] theorem State.finishRead_cond (s : State) (r : ReadRoutine) (b : Byte) : (s.finishRead r b).cond = s.cond := by
  cases r <;> rfl
@[simp] theorem State.finishRead_mem (s : State) (r : ReadRoutine) (b : Byte) : (s.finishRead r b).mem = s.mem := by
  cases r <;> rfl
@[simp] theorem State.finishRead_run (s : State) (r : ReadRoutine) (b : Byte) : (s.finishRead r b).run = s.run := by
  cases r <;> rfl
@[simp] theorem State.finishRead_exitStatus (s : State) (r : ReadRoutine) (b : Byte) : (s.finishRead r b).exitStatus = s.exitStatus := by
  cases r <;> rfl
@[simp] theorem State.finishRead_input (s : State) (r : ReadRoutine) (b : Byte) : (s.finishRead r b).input = s.input := by
  cases r <;> rfl
@[simp] theorem State.finishRead_waiting (s : State) (r : ReadRoutine) (b : Byte) : (s.finishRead r b).waiting = s.waiting := by
  cases r <;> rfl
@[simp] theorem State.finishRead_ir (s : State) (r : ReadRoutine) (b : Byte) : (s.finishRead r b).ir = s.ir := by
  cases r <;> rfl
@[simp] theorem State.finishRead_abortIn (s : State) (r : ReadRoutine) (b : Byte) : (s.finishRead r b).abortIn = s.abortIn := by
  cases r <;> rfl
@[simp] theorem State.finishRead_params (s : State) (r : ReadRoutine) (b : Byte) : (s.finishRead r b).params = s.params := by
  cases r <;> rfl

@[simp] theorem State.blockingRead_pc (s : State) (r : ReadRoutine) : (s.blockingRead r).pc = s.pc := by
  unfold State.blockingRead; split <;> simp
@[simp] theorem State.blockingRead_cond (s : State) (r : ReadRoutine) : (s.blockingRead r).cond = s.cond := by
  unfold State.blockingRead; split <;> simp
@[simp] theorem State.blockingRead_mem (s : State) (r : ReadRoutine) : (s.blockingRead r).mem = s.mem := by
  unfold State.blockingRead; split <;> simp
@[simp] theorem State.blockingRead_run (s : State) (r : ReadRoutine) : (s.blockingRead r).run = s.run := by
  unfold State.blockingRead; split <;> simp
@[simp] theorem State.blockingRead_exitStatus (s : State) (r : ReadRoutine) : (s.blockingRead r).exitStatus = s.exitStatus := by
  unfold State.blockingRead; split <;> simp
@[simp] theorem State.blockingRead_ir (s : State) (r : ReadRoutine) : (s.blockingRead r).ir = s.ir := by
  unfold State.blockingRead; split <;> simp
@[simp] theorem State.blockingRead_abortIn (s : State) (r : ReadRoutine) : (s.blockingRead r).abortIn = s.abortIn := by
  unfold State.blockingRead; split <;> simp
@[simp] theorem State.blockingRead_params (s : State) (r : ReadRoutine) : (s.blockingRead r).params = s.params := by
  unfold State.blockingRead; split <;> simp

@[simp] theorem State.loadInto_pc (s : State) (r : RegId) (a : Word) : (s.loadInto r a).pc = s.pc := by
  simp [State.loadInto, State.memRead]
@[simp] theorem State.loadInto_run (s : State) (r : RegId) (a : Word) : (s.loadInto r a).run = s.run := by
  simp [State.loadInto, State.memRead]
@[simp] theorem State.loadInto_exitStatus (s : State) (r : RegId) (a : Word) : (s.loadInto r a).exitStatus = s.exitStatus := by
  simp [State.loadInto, State.memRead]
@[simp] theorem State.loadInto_output (s : State) (r : RegId) (a : Word) : (s.loadInto r a).output = s.output := by
  simp [State.loadInto, State.memRead]
@[simp] theorem State.loadInto_waiting (s : State) (r : RegId) (a : Word) : (s.loadInto r a).waiting = s.waiting := by
  simp [State.loadInto, State.memRead]
@[simp] theorem State.loadInto_ir (s : State) (r : RegId) (a : Word) : (s.loadInto r a).ir = s.ir := by
  simp [State.loadInto, State.memRead]
@[simp] theorem State.loadInto_abortIn (s : State) (r : RegId) (a : Word) : (s.loadInto r a).abortIn = s.abortIn := by
  simp [State.loadInto, State.memRead]
@[simp] theorem State.loadInto_params (s : State) (r : RegId) (a : Word) : (s.loadInto r a).params = s.params := by
  simp [State.loadInto, State.memRead]

@[simp] theorem State.memRead_snd (s : State) (a : Word) : (s.memRead a).2 = s.readEffect a := rfl
@[simp] theorem State.memRead_fst (s : State) (a : Word) :
    (s.memRead a).1 = (s.readEffect a).rawRead a := rfl
@[simp] theorem State.fetch_pc (s : State) : s.fetch.pc = s.pc + 1#16 := rfl
@[simp] theorem State.fetch_ir (s : State) : s.fetch.ir = (s.memRead s.pc).1 := rfl
@[simp] theorem State.fetch_mem (s : State) : s.fetch.mem = (s.readEffect s.pc).mem := rfl
@[simp] theorem State.fetch_input (s : State) : s.fetch.input = (s.readEffect s.pc).input := rfl
@[simp] theorem State.fetch_regs (s : State) : s.fetch.regs = s.regs := by
  simp [State.fetch]
@[simp] theorem State.fetch_cond (s : State) : s.fetch.cond = s.cond := by
  simp [State.fetch]
@[simp] theorem State.fetch_run (s : State) : s.fetch.run = s.run := by
  simp [State.fetch]
@[simp] theorem State.fetch_exitStatus (s : State) : s.fetch.exitStatus = s.exitStatus := by
  simp [State.fetch]
@[simp] theorem State.fetch_output (s : State) : s.fetch.output = s.output := by
  simp [State.fetch]
@[simp] theorem State.fetch_waiting (s : State) : s.fetch.waiting = s.waiting := by
  simp [State.fetch]
@[simp] theorem State.fetch_abortIn (s : State) : s.fetch.abortIn = s.abortIn := by
  simp [State.fetch]
@[simp] theorem State.fetch_params (s : State) : s.fetch.params = s.params := by
  simp [State.fetch]

/-! Registers. -/

theorem State.readReg_congr {s t : State} (h : t.regs = s.regs) (r : RegId) :
    t.readReg r = s.readReg r := by unfold State.readReg; rw [h]

theorem State.readReg_writeReg (s : State) (r q : RegId) (v : Word) :
    (s.writeReg r v).readReg q = if q = r then v else s.readReg q := by
  simp only [State.readReg, State.writeReg, Vector.getElem_set, BitVec.toNat_eq, eq_comm]

@[simp] theorem State.readReg_writeReg_same (s : State) (r : RegId) (v : Word) :
    (s.writeReg r v).readReg r = v := by simp [State.readReg_writeReg]

@[simp] theorem State.readReg_writeReg_other {r q : RegId} (h : q ≠ r) (s : State) (v : Word) :
    (s.writeReg r v).readReg q = s.readReg q := by simp [State.readReg_writeReg, h]

theorem State.readReg_writeResult (s : State) (r q : RegId) (v : Word) :
    (s.writeResult r v).readReg q = if q = r then v else s.readReg q := State.readReg_writeReg s r q v

theorem State.readReg_link (s : State) (q : RegId) :
    s.link.readReg q = if q = reg7 then s.pc else s.readReg q := State.readReg_writeReg s reg7 q s.pc

@[simp] theorem State.readReg_setPc (s : State) (a : Word) (q : RegId) :
    (s.setPc a).readReg q = s.readReg q := rfl
@[simp] theorem State.readReg_setcc (s : State) (v : Word) (q : RegId) :
    (s.setcc v).readReg q = s.readReg q := rfl
@[simp] theorem State.readReg_memWrite (s : State) (a v : Word) (q : RegId) :
    (s.memWrite a v).readReg q = s.readReg q := rfl
@[simp] theorem State.readReg_writeChars (s : State) (bs : List Byte) (q : RegId) :
    (s.writeChars bs).readReg q = s.readReg q := rfl
@[simp] theorem State.readReg_raiseFault (s : State) (c : FaultCause) (q : RegId) :
    (s.raiseFault c).readReg q = s.readReg q := rfl
@[simp] theorem State.readReg_halt (s : State) (q : RegId) :
    (s.halt).readReg q = s.readReg q := rfl
@[simp] theorem State.readReg_takeAbort (s : State) (q : RegId) :
    (s.takeAbort).readReg q = s.readReg q := rfl
@[simp] theorem State.readReg_tickAbort (s : State) (q : RegId) :
    (s.tickAbort).readReg q = s.readReg q := rfl
@[simp] theorem State.readReg_kbPoll (s : State) (q : RegId) :
    (s.kbPoll).readReg q = s.readReg q := State.readReg_congr (by simp) q
@[simp] theorem State.readReg_readEffect (s : State) (a : Word) (q : RegId) :
    (s.readEffect a).readReg q = s.readReg q := State.readReg_congr (by simp) q
@[simp] theorem State.readReg_fetch (s : State) (q : RegId) :
    (s.fetch).readReg q = s.readReg q := State.readReg_congr (by simp) q

theorem State.readReg_finishRead (s : State) (r : ReadRoutine) (b : Byte) (q : RegId) :
    (s.finishRead r b).readReg q = if q = reg0 then zext16 b else s.readReg q := by
  cases r <;> exact State.readReg_writeReg _ _ _ _

/-! Memory. -/

theorem State.rawRead_congr {s t : State} (h : t.mem = s.mem) (a : Word) :
    t.rawRead a = s.rawRead a := by unfold State.rawRead; rw [h]

theorem State.rawRead_memWrite (s : State) (a b v : Word) :
    (s.memWrite a v).rawRead b = if b = a then v else s.rawRead b := by
  simp only [State.rawRead, State.memWrite, Memory.read_write, BitVec.toNat_eq]

@[simp] theorem State.rawRead_memWrite_same (s : State) (a v : Word) :
    (s.memWrite a v).rawRead a = v := by simp [State.rawRead_memWrite]

@[simp] theorem State.rawRead_memWrite_other {a b : Word} (h : b ≠ a) (s : State) (v : Word) :
    (s.memWrite a v).rawRead b = s.rawRead b := by simp [State.rawRead_memWrite, h]

/-- The last of two stores to a cell wins. -/
theorem State.memWrite_memWrite (s : State) (a v w : Word) :
    (s.memWrite a v).memWrite a w = s.memWrite a w := by
  simp [State.memWrite, Memory.write_write]

/-- A write at a word address keeps the canonical form, for simp after `memWrite_mem`. -/
@[simp] theorem Memory.wf_write_word {m : Memory} (h : m.wf = true) (a v : Word) :
    (m.write a.toNat v).wf = true := Memory.wf_write h a.isLt v

/-- A store keeps the canonical form of the memory. -/
theorem State.memWrite_wf {s : State} (h : s.mem.wf = true) (a v : Word) :
    (s.memWrite a v).mem.wf = true := Memory.wf_write h a.isLt v

@[simp] theorem State.rawRead_writeReg (s : State) (r : RegId) (v : Word) (q : Word) :
    (s.writeReg r v).rawRead q = s.rawRead q := rfl
@[simp] theorem State.rawRead_setPc (s : State) (a : Word) (q : Word) :
    (s.setPc a).rawRead q = s.rawRead q := rfl
@[simp] theorem State.rawRead_setcc (s : State) (v : Word) (q : Word) :
    (s.setcc v).rawRead q = s.rawRead q := rfl
@[simp] theorem State.rawRead_writeResult (s : State) (r : RegId) (v : Word) (q : Word) :
    (s.writeResult r v).rawRead q = s.rawRead q := rfl
@[simp] theorem State.rawRead_link (s : State) (q : Word) :
    (s.link).rawRead q = s.rawRead q := rfl
@[simp] theorem State.rawRead_writeChars (s : State) (bs : List Byte) (q : Word) :
    (s.writeChars bs).rawRead q = s.rawRead q := rfl
@[simp] theorem State.rawRead_raiseFault (s : State) (c : FaultCause) (q : Word) :
    (s.raiseFault c).rawRead q = s.rawRead q := rfl
@[simp] theorem State.rawRead_halt (s : State) (q : Word) :
    (s.halt).rawRead q = s.rawRead q := rfl
@[simp] theorem State.rawRead_takeAbort (s : State) (q : Word) :
    (s.takeAbort).rawRead q = s.rawRead q := rfl
@[simp] theorem State.rawRead_tickAbort (s : State) (q : Word) :
    (s.tickAbort).rawRead q = s.rawRead q := rfl
@[simp] theorem State.rawRead_finishRead (s : State) (r : ReadRoutine) (b : Byte) (q : Word) :
    (s.finishRead r b).rawRead q = s.rawRead q := State.rawRead_congr (by simp) q
@[simp] theorem State.rawRead_blockingRead (s : State) (r : ReadRoutine) (q : Word) :
    (s.blockingRead r).rawRead q = s.rawRead q := State.rawRead_congr (by simp) q

end Sys2Proof.Machine
end

