-- ==== Sys2Proof/Laws/Ops.lean ====
section
/-! SUPPORT. One law per shared operation, saying once everything it can do; callers cite it and do not
unfold the operation. -/

namespace Sys2Proof.Machine

/-! The keyboard poll and MemRead. -/

/-- What a poll can do (R54): consume the ready byte into KBDR, or clear KBSR alone. -/
theorem State.kbPoll_cases (s : State) :
    (∃ b rest, s.input = .key b :: rest ∧
      s.kbPoll = ({ s with input := rest }.memWrite kbsr 0x8000#16).memWrite kbdr (zext16 b)) ∨
    ((∀ b rest, s.input ≠ .key b :: rest) ∧
      s.kbPoll = { s with input := s.input.tail }.memWrite kbsr 0x0000#16) := by
  unfold State.kbPoll
  split
  · rename_i b rest h; exact .inl ⟨b, rest, h, rfl⟩
  · rename_i rest h; exact .inr ⟨by simp [h], by simp [h]⟩
  · rename_i h; exact .inr ⟨by simp [h], by simp [h, State.memWrite]⟩

/-- An answer that brings no byte leaves the bytes still to come. -/
theorem comingBytes_tail : ∀ {l : List HostTurn}, (∀ b rest, l ≠ .key b :: rest) →
    comingBytes l.tail = comingBytes l
  | [], _ => rfl
  | .quiet :: _, _ => rfl
  | .key b :: rest, h => absurd rfl (h b rest)

/-- A poll uses up answers of the host from the front only. -/
theorem State.kbPoll_input_suffix (s : State) : s.kbPoll.input <:+ s.input := by
  obtain ⟨b, rest, h, hp⟩ | ⟨-, hp⟩ := s.kbPoll_cases
  · rw [hp, h]; exact List.suffix_cons _ _
  · rw [hp]; exact List.tail_suffix _

theorem State.readEffect_of_ne {a : Word} (h : a ≠ kbsr) (s : State) : s.readEffect a = s := by
  simp [State.readEffect, h]

@[simp] theorem State.readEffect_kbsr (s : State) : s.readEffect kbsr = s.kbPoll := by
  simp [State.readEffect]

/-- A poll touches no cell but KBSR and KBDR (R54, R71). -/
theorem State.rawRead_kbPoll_other {c : Word} (h : c ≠ kbsr) (h' : c ≠ kbdr) (s : State) :
    s.kbPoll.rawRead c = s.rawRead c := by
  obtain ⟨b, rest, -, hp⟩ | ⟨-, hp⟩ := s.kbPoll_cases <;>
    rw [hp] <;> simp [h, h'] <;> rfl

/-- A MemRead changes no cell but those its poll touches (R53, R62). -/
theorem State.readEffect_memKept (s : State) (a : Word) :
    memKept (readTouches a) s (s.readEffect a) := by
  intro c hc
  by_cases ha : a = kbsr
  · subst ha
    simp [readTouches] at hc
    simpa using State.rawRead_kbPoll_other hc.1 hc.2 s
  · rw [State.readEffect_of_ne ha]

theorem State.readEffect_input_suffix (s : State) (a : Word) : (s.readEffect a).input <:+ s.input := by
  unfold State.readEffect
  split
  · exact s.kbPoll_input_suffix
  · exact List.suffix_refl _

/-- A poll keeps the memory canonical. -/
theorem State.kbPoll_wf {s : State} (h : s.mem.wf = true) : s.kbPoll.mem.wf = true := by
  obtain ⟨b, rest, -, hp⟩ | ⟨-, hp⟩ := s.kbPoll_cases
  · rw [hp]; exact State.memWrite_wf (State.memWrite_wf h _ _) _ _
  · rw [hp]; exact State.memWrite_wf h _ _

/-- A MemRead keeps the memory canonical. -/
theorem State.readEffect_wf {s : State} (h : s.mem.wf = true) (a : Word) :
    (s.readEffect a).mem.wf = true := by
  unfold State.readEffect
  split
  · exact State.kbPoll_wf h
  · exact h

/-- A load's register, flag and memory effect in one place (R160 to R162). -/
theorem State.readReg_loadInto (s : State) (dr q : RegId) (a : Word) :
    (s.loadInto dr a).readReg q = if q = dr then (s.memRead a).1 else s.readReg q := by
  simp [State.loadInto, State.readReg_writeResult]

@[simp] theorem State.loadInto_cond (s : State) (dr : RegId) (a : Word) :
    (s.loadInto dr a).cond = condOf (s.memRead a).1 := rfl

@[simp] theorem State.loadInto_mem (s : State) (dr : RegId) (a : Word) :
    (s.loadInto dr a).mem = (s.readEffect a).mem := rfl

@[simp] theorem State.loadInto_input (s : State) (dr : RegId) (a : Word) :
    (s.loadInto dr a).input = (s.readEffect a).input := rfl

/-! Flags. -/

/-- The flag selected is one of the three (R26, R27). -/
theorem condOf_legal (v : Word) : condLegal (condOf v) = true := by
  unfold condOf
  split
  · rfl
  · split <;> rfl

/-! The blocking read. -/

/-- What a blocking read can do: take the ready byte and end the routine, or wait (R253, R257). -/
theorem State.blockingRead_cases (s : State) (r : ReadRoutine) :
    (∃ b rest, s.input = .key b :: rest ∧
      s.blockingRead r = { s with input := rest, waiting := none }.finishRead r b) ∨
    ((∀ b rest, s.input ≠ .key b :: rest) ∧
      s.blockingRead r = { s with input := s.input.tail, waiting := some r }) := by
  unfold State.blockingRead
  split
  · rename_i b rest h; exact .inl ⟨b, rest, h, rfl⟩
  · rename_i rest h; exact .inr ⟨by simp [h], by simp [h]⟩
  · rename_i h; exact .inr ⟨by simp [h], by simp [h]⟩

/-! The string walks. -/

/-- If PUTS's walk ends, it ended at a zero word within the cells it looked at (R203). -/
theorem State.putsWalk_some {s : State} :
    ∀ {n : Nat} {a : Word} {bs : List Byte}, s.putsWalk n a = some bs →
      bs.length < n ∧ s.rawRead (a + BitVec.ofNat 16 bs.length) = 0x0000#16
  | n + 1, a, bs, h => by
    unfold State.putsWalk at h
    split at h
    · rename_i hz
      cases h
      exact ⟨by simp, by simpa using hz⟩
    · obtain ⟨tl, htl, rfl⟩ := Option.map_eq_some_iff.mp h
      obtain ⟨h1, h2⟩ := State.putsWalk_some htl
      refine ⟨by simpa using h1, ?_⟩
      have : a + BitVec.ofNat 16 (tl.length + 1) = a + 1 + BitVec.ofNat 16 tl.length := by
        rw [BitVec.add_assoc]; congr 1; apply BitVec.eq_of_toNat_eq; simp; omega
      simpa [this] using h2

/-- The whole effect of PUTS and PUTSP after their walk (R203, R205). -/
theorem State.writeString_cases (s : State) (walk : Option (List Byte)) :
    (∃ bs, walk = some bs ∧ s.writeString walk = .next (s.writeChars bs)) ∨
    (walk = none ∧ s.writeString walk = .fault .stringNeverEnds) := by
  cases walk with
  | none => exact .inr ⟨rfl, rfl⟩
  | some bs => exact .inl ⟨bs, rfl, rfl⟩

/-! The run state. -/

/-- A raised fault records the word under way and the address it was fetched from (R240, R241). -/
theorem State.raiseFault_record (s : State) (c : FaultCause) :
    (s.raiseFault c).faultRecord = some { cause := c, instr := s.ir, addr := s.pc - 1#16 } := rfl

end Sys2Proof.Machine
end

