-- ==== Sys2Proof/Laws/PerInstr.lean ====
section
/-! SUPPORT. The per-instruction family EncodeRow: an instruction's word is a word of its own row of
spec/opcode_table.json. -/

namespace Sys2Proof.Laws.EncodeRow

/-- The word of a well-formed instruction has the bits its row of the opcode table fixes (R82 to R93, R98). -/
def Statement (i : Instr) : Prop := i.wellFormed = true → rowCovers (tableIndex i) (encode i) = true

theorem br (n z p : Bool) (off : BitVec 9) : Statement (.br n z p off) :=
  fun _ => rowCovers_of (k := 0) rfl (by decide) (word_pcRel_mask 0x0#4 (condField n z p) off)
theorem addReg (dr sr1 sr2 : RegId) : Statement (.addReg dr sr1 sr2) :=
  fun _ => rowCovers_of (k := 1) rfl (by decide) (word_operate_mask 0x1#4 dr sr1 sr2)
theorem addImm (dr sr1 : RegId) (imm : BitVec 5) : Statement (.addImm dr sr1 imm) :=
  fun _ => rowCovers_of (k := 2) rfl (by decide) (word_immediate_mask 0x1#4 dr sr1 imm)
theorem ld (dr : RegId) (off : BitVec 9) : Statement (.ld dr off) :=
  fun _ => rowCovers_of (k := 3) rfl (by decide) (word_pcRel_mask 0x2#4 dr off)
theorem st (sr : RegId) (off : BitVec 9) : Statement (.st sr off) :=
  fun _ => rowCovers_of (k := 4) rfl (by decide) (word_pcRel_mask 0x3#4 sr off)
theorem jsr (off : BitVec 11) : Statement (.jsr off) :=
  fun _ => rowCovers_of (k := 5) rfl (by decide) (word_jsr_mask off)
theorem jsrr (baseR : RegId) : Statement (.jsrr baseR) :=
  fun _ => rowCovers_of (k := 6) rfl (by decide) (word_jsrr_mask baseR)
theorem andReg (dr sr1 sr2 : RegId) : Statement (.andReg dr sr1 sr2) :=
  fun _ => rowCovers_of (k := 7) rfl (by decide) (word_operate_mask 0x5#4 dr sr1 sr2)
theorem andImm (dr sr1 : RegId) (imm : BitVec 5) : Statement (.andImm dr sr1 imm) :=
  fun _ => rowCovers_of (k := 8) rfl (by decide) (word_immediate_mask 0x5#4 dr sr1 imm)
theorem ldr (dr baseR : RegId) (off : BitVec 6) : Statement (.ldr dr baseR off) :=
  fun _ => rowCovers_of (k := 9) rfl (by decide) (word_base_mask 0x6#4 dr baseR off)
theorem str (sr baseR : RegId) (off : BitVec 6) : Statement (.str sr baseR off) :=
  fun _ => rowCovers_of (k := 10) rfl (by decide) (word_base_mask 0x7#4 sr baseR off)
theorem rti : Statement .rti :=
  fun _ => rowCovers_of (k := 11) rfl (by decide) (rfl)
theorem not (dr sr : RegId) : Statement (.not dr sr) :=
  fun _ => rowCovers_of (k := 12) rfl (by decide) (word_base_mask 0x9#4 dr sr 0#6)
theorem ldi (dr : RegId) (off : BitVec 9) : Statement (.ldi dr off) :=
  fun _ => rowCovers_of (k := 13) rfl (by decide) (word_pcRel_mask 0xA#4 dr off)
theorem sti (sr : RegId) (off : BitVec 9) : Statement (.sti sr off) :=
  fun _ => rowCovers_of (k := 14) rfl (by decide) (word_pcRel_mask 0xB#4 sr off)
theorem jmp (baseR : RegId) : Statement (.jmp baseR) :=
  fun _ => rowCovers_of (k := 15) rfl (by decide) (word_base_mask 0xC#4 0b000#3 baseR 0#6)
theorem res : Statement .res :=
  fun _ => rowCovers_of (k := 16) rfl (by decide) (rfl)
theorem lea (dr : RegId) (off : BitVec 9) : Statement (.lea dr off) :=
  fun _ => rowCovers_of (k := 17) rfl (by decide) (word_pcRel_mask 0xE#4 dr off)
theorem trapGetc : Statement .trapGetc :=
  fun _ => rowCovers_of (k := 18) rfl (by decide) (rfl)
theorem trapOut : Statement .trapOut :=
  fun _ => rowCovers_of (k := 19) rfl (by decide) (rfl)
theorem trapPuts : Statement .trapPuts :=
  fun _ => rowCovers_of (k := 20) rfl (by decide) (rfl)
theorem trapIn : Statement .trapIn :=
  fun _ => rowCovers_of (k := 21) rfl (by decide) (rfl)
theorem trapPutsp : Statement .trapPutsp :=
  fun _ => rowCovers_of (k := 22) rfl (by decide) (rfl)
theorem trapHalt : Statement .trapHalt :=
  fun _ => rowCovers_of (k := 23) rfl (by decide) (rfl)
theorem trapUndefined (vector : Byte) : Statement (.trapUndefined vector) := by
  intro h
  have hv : definedVector vector = false := by simpa [Instr.wellFormed] using h
  have hm : trapWord vector &&& 0xF000#16 = 0xF000#16 := word_trap_mask vector
  simp [rowCovers, tableIndex, opcodeTable, encode, hm, vectField8_trapWord, hv]

end Sys2Proof.Laws.EncodeRow
end

