-- ==== Sys2Proof/Laws/Step.lean ====
section
/-! SUPPORT. What a step can do, said once; invariants are derived from it. -/

namespace Sys2Proof.Machine

/-- A MemRead and the tick of the host's countdown do not touch each other. -/
@[simp] theorem State.readEffect_tickAbort (s : State) (a : Word) :
    s.tickAbort.readEffect a = (s.readEffect a).tickAbort := by
  unfold State.readEffect
  split
  · unfold State.kbPoll
    simp only [State.tickAbort_input]
    split <;> rfl
  · rfl

/-- Every way a step answers: a terminal state stays, an abort asserted now is taken, a wait goes on, or
the fetched instruction runs (R33, R246, R257, R274). -/
theorem step_cases (s : State) :
    (s.run ≠ .running ∧ step s = .next s) ∨
    (s.run = .running ∧ s.abortIn = some 0 ∧ step s = .next s.takeAbort) ∨
    (∃ r, s.run = .running ∧ s.abortIn ≠ some 0 ∧ s.waiting = some r ∧
      step s = .next (s.tickAbort.blockingRead r)) ∨
    (s.Ready ∧ step s = exec (decodeWord s.tickAbort.fetch.ir) s.tickAbort.fetch) := by
  cases hr : s.run with
  | running =>
    by_cases ha : s.abortIn = some 0
    · exact .inr (.inl ⟨rfl, ha, by simp [step, cycle, hr, ha]⟩)
    · cases hw : s.waiting with
      | some r =>
        exact .inr (.inr (.inl ⟨r, rfl, ha, rfl, by simp [step, cycle, hr, ha, runTurn, hw]⟩))
      | none =>
        exact .inr (.inr (.inr ⟨⟨hr, hw, ha⟩,
          by simp [step, cycle, hr, ha, runTurn, hw, runInstruction]⟩))
  | halted => exact .inl ⟨by simp, by simp [step, cycle, hr]⟩
  | faulted r => exact .inl ⟨by simp, by simp [step, cycle, hr]⟩
  | aborted => exact .inl ⟨by simp, by simp [step, cycle, hr]⟩

/-- Every instruction but PUTS and PUTSP answers a next state, from every state. -/
theorem exec_next_or_string (i : Instr) (s : State) :
    (∃ t, exec i s = .next t) ∨
      (exec i s = .fault .stringNeverEnds ∧ (i = .trapPuts ∨ i = .trapPutsp)) := by
  cases i with
  | trapPuts =>
    obtain ⟨bs, -, h⟩ | ⟨-, h⟩ := s.link.writeString_cases (s.link.putsWalk memCells (s.link.readReg reg0))
    · exact .inl ⟨_, h⟩
    · exact .inr ⟨h, .inl rfl⟩
  | trapPutsp =>
    obtain ⟨bs, -, h⟩ | ⟨-, h⟩ := s.link.writeString_cases (s.link.putspWalk memCells (s.link.readReg reg0))
    · exact .inl ⟨_, h⟩
    · exact .inr ⟨h, .inr rfl⟩
  | _ => exact .inl ⟨_, rfl⟩

end Sys2Proof.Machine
end

