-- ==== Sys2Proof/Laws/Strings.lean ====
section
/-! SUPPORT. The laws of the string walks of PUTS and PUTSP: what they collect, and when they never end
(44_trap.md R203, R205). -/

namespace Sys2Proof.Machine

/-- Stepping the pointer once and then `k` times is stepping it `k + 1` times. -/
theorem addr_succ (a : Word) (k : Nat) :
    a + 1#16 + BitVec.ofNat 16 k = a + BitVec.ofNat 16 (k + 1) := by
  rw [BitVec.add_assoc]
  congr 1
  apply BitVec.eq_of_toNat_eq
  simp
  omega

/-- PUTS's walk collects the low bytes of the words before the first zero one. -/
theorem State.putsWalk_eq (s : State) : ∀ {n m : Nat} {a : Word}, n < m →
    (∀ k, k < n → s.rawRead (a + BitVec.ofNat 16 k) ≠ 0x0000#16) →
    s.rawRead (a + BitVec.ofNat 16 n) = 0x0000#16 →
    s.putsWalk m a =
      some ((List.range n).map fun k => lowByte (s.rawRead (a + BitVec.ofNat 16 k)))
  | 0, m + 1, a, _, _, hz => by
    simp only [BitVec.add_zero] at hz
    simp [State.putsWalk, hz]
  | n + 1, m + 1, a, hm, h, hz => by
    have h0 : s.rawRead a ≠ 0x0000#16 := by simpa using h 0 (by omega)
    have ih := State.putsWalk_eq s (n := n) (m := m) (a := a + 1#16) (by omega)
      (fun k hk => by rw [addr_succ]; exact h _ (by omega)) (by rw [addr_succ]; exact hz)
    rw [State.putsWalk, if_neg h0, ih, List.range_succ_eq_map]
    simp only [addr_succ, Option.map_some, List.map_cons, List.map_map]
    simp [Function.comp_def]

/-- Where no cell is zero, PUTS's walk never ends. -/
theorem State.putsWalk_none {s : State} (h : ∀ a, s.rawRead a ≠ 0x0000#16) :
    ∀ (n : Nat) (a : Word), s.putsWalk n a = none
  | 0, _ => rfl
  | n + 1, a => by simp [State.putsWalk, h a, State.putsWalk_none h n (a + 1#16)]

/-- Under ZERO_WORD, PUTSP's walk collects, for each word before the first zero one, the low byte and
then the high byte if it is not zero. -/
theorem State.putspWalk_zeroWord_eq (s : State) (ht : s.params.putspTerm = .zeroWord) :
    ∀ {n m : Nat} {a : Word}, n < m →
    (∀ k, k < n → s.rawRead (a + BitVec.ofNat 16 k) ≠ 0x0000#16) →
    s.rawRead (a + BitVec.ofNat 16 n) = 0x0000#16 →
    s.putspWalk m a = some ((List.range n).flatMap fun k =>
      lowByte (s.rawRead (a + BitVec.ofNat 16 k)) ::
        (if highByte (s.rawRead (a + BitVec.ofNat 16 k)) = 0#8 then []
         else [highByte (s.rawRead (a + BitVec.ofNat 16 k))]))
  | 0, m + 1, a, _, _, hz => by
    simp only [BitVec.add_zero] at hz
    simp [State.putspWalk, hz]
  | n + 1, m + 1, a, hm, h, hz => by
    have h0 : s.rawRead a ≠ 0x0000#16 := by simpa using h 0 (by omega)
    have ih := State.putspWalk_zeroWord_eq s ht (n := n) (m := m) (a := a + 1#16) (by omega)
      (fun k hk => by rw [addr_succ]; exact h _ (by omega)) (by rw [addr_succ]; exact hz)
    rw [State.putspWalk, if_neg h0, ih, List.range_succ_eq_map]
    simp only [addr_succ, ht, List.flatMap_cons, List.flatMap_map]
    by_cases hh : highByte (s.rawRead a) = 0#8 <;> simp [hh]

/-- Byte `j` of the string at `a`, two a word, low byte first (R59). -/
def State.byteFrom (s : State) (a : Word) (j : Nat) : Byte :=
  if j % 2 = 0 then lowByte (s.rawRead (a + BitVec.ofNat 16 (j / 2)))
  else highByte (s.rawRead (a + BitVec.ofNat 16 (j / 2)))

theorem State.byteFrom_succ (s : State) (a : Word) (j : Nat) :
    s.byteFrom (a + 1#16) j = s.byteFrom a (j + 2) := by
  have h : (j + 2) / 2 = j / 2 + 1 := by omega
  simp only [State.byteFrom, addr_succ, h, Nat.add_mod_right]

theorem zeroWord_lowByte {w : Word} (h : w = 0x0000#16) : lowByte w = 0#8 := by subst h; rfl

/-- Under ZERO_BYTE, PUTSP's walk collects the bytes before the first zero one. -/
theorem State.putspWalk_zeroByte_eq (s : State) (ht : s.params.putspTerm = .zeroByte) :
    ∀ {m n : Nat} {a : Word}, n < 2 * m → (∀ j, j < n → s.byteFrom a j ≠ 0#8) →
    s.byteFrom a n = 0#8 → s.putspWalk m a = some ((List.range n).map (s.byteFrom a))
  | 0, n, a, hm, _, _ => by omega
  | m + 1, n, a, hm, h, hz => by
    have e0 : s.byteFrom a 0 = lowByte (s.rawRead a) := by simp [State.byteFrom]
    have e1 : s.byteFrom a 1 = highByte (s.rawRead a) := by simp [State.byteFrom]
    match n, h, hz with
    | 0, _, hz =>
      rw [e0] at hz
      by_cases hw : s.rawRead a = 0x0000#16 <;> simp [State.putspWalk, hw, ht, hz]
    | 1, h, hz =>
      have hl := h 0 (by omega)
      rw [e0] at hl
      rw [e1] at hz
      have hw : s.rawRead a ≠ 0x0000#16 := fun hw => hl (zeroWord_lowByte hw)
      simp [State.putspWalk, hw, hl, hz, ht, e0]
    | n + 2, h, hz =>
      have hl := h 0 (by omega)
      have hh := h 1 (by omega)
      rw [e0] at hl
      rw [e1] at hh
      have hw : s.rawRead a ≠ 0x0000#16 := fun hw => hl (zeroWord_lowByte hw)
      have ih := State.putspWalk_zeroByte_eq s ht (m := m) (n := n) (a := a + 1#16) (by omega)
        (fun j hj => by rw [State.byteFrom_succ]; exact h _ (by omega))
        (by rw [State.byteFrom_succ]; exact hz)
      rw [State.putspWalk, if_neg hw, if_neg (fun c => hl c.2), if_pos hh, ih,
        List.range_succ_eq_map, List.range_succ_eq_map]
      simp [e0, e1, State.byteFrom_succ, Function.comp_def]

/-- Where no word (under ZERO_BYTE, no byte) is zero, PUTSP's walk never ends. -/
theorem State.putspWalk_none {s : State} (h : ∀ a, s.rawRead a ≠ 0x0000#16)
    (hb : s.params.putspTerm = .zeroByte →
      ∀ a, lowByte (s.rawRead a) ≠ 0#8 ∧ highByte (s.rawRead a) ≠ 0#8) :
    ∀ (n : Nat) (a : Word), s.putspWalk n a = none
  | 0, _ => rfl
  | n + 1, a => by
    have ih := State.putspWalk_none h hb n (a + 1#16)
    by_cases ht : s.params.putspTerm = .zeroByte
    · simp [State.putspWalk, h a, (hb ht a).1, (hb ht a).2, ih]
    · simp [State.putspWalk, h a, ht, ih]

end Sys2Proof.Machine
end

