-- ==== Sys2Proof/Tests/Slice0.lean ====
section
/-! SUPPORT. Tests: ill-formed terms, the spec's words and vectors (95_test_vectors.md, quoted by their
numbers), and a witness for every statement that has hypotheses. -/

namespace Sys2Proof.Tests

open Sys2Proof.Machine

/-! Well-formedness refuses (R98, R207): every one of the six defined vectors is ill-formed as undefined. -/

theorem test_illFormed_getc_vector : (Instr.trapUndefined 0x20#8).wellFormed = false := by decide
theorem test_illFormed_halt_vector : (Instr.trapUndefined 0x25#8).wellFormed = false := by decide
theorem test_wellFormed_below : (Instr.trapUndefined 0x1F#8).wellFormed = true := by decide
theorem test_wellFormed_above : (Instr.trapUndefined 0x26#8).wellFormed = true := by decide

/-! One word per constructor, written out from the formats R83 to R93. -/

theorem test_decode_br : decodeWord 0b0000001111111101#16 = .br false false true 0b111111101#9 := by decide
theorem test_decode_addReg : decodeWord 0b0001001010011011#16 = .addReg 1#3 2#3 3#3 := by decide
theorem test_decode_addImm : decodeWord 0b0001001010100001#16 = .addImm 1#3 2#3 1#5 := by decide
theorem test_decode_ld : decodeWord 0b0010010000000101#16 = .ld 2#3 5#9 := by decide
theorem test_decode_st : decodeWord 0b0011001000000011#16 = .st 1#3 3#9 := by decide
theorem test_decode_jsr : decodeWord 0b0100100000000010#16 = .jsr 2#11 := by decide
theorem test_decode_jsrr : decodeWord 0b0100011011111111#16 = .jsrr 3#3 := by decide
theorem test_decode_andReg : decodeWord 0b0101011100000101#16 = .andReg 3#3 4#3 5#3 := by decide
theorem test_decode_andImm : decodeWord 0b0101001001110000#16 = .andImm 1#3 1#3 0b10000#5 := by decide
theorem test_decode_ldr : decodeWord 0b0110101110111111#16 = .ldr 5#3 6#3 0b111111#6 := by decide
theorem test_decode_str : decodeWord 0b0111010011111111#16 = .str 2#3 3#3 0b111111#6 := by decide
theorem test_decode_rti : decodeWord 0b1000111111111111#16 = .rti := by decide
theorem test_decode_not : decodeWord 0b1001001010000000#16 = .not 1#3 2#3 := by decide
theorem test_decode_ldi : decodeWord 0b1010100000000010#16 = .ldi 4#3 2#9 := by decide
theorem test_decode_sti : decodeWord 0b1011101000000010#16 = .sti 5#3 2#9 := by decide
theorem test_decode_jmp : decodeWord 0b1100000111000000#16 = .jmp 7#3 := by decide
theorem test_decode_res : decodeWord 0b1101101010111100#16 = .res := by decide
theorem test_decode_lea : decodeWord 0b1110011111111110#16 = .lea 3#3 0b111111110#9 := by decide
theorem test_decode_trapGetc : decodeWord 0b1111000000100000#16 = .trapGetc := by decide
theorem test_decode_trapOut : decodeWord 0b1111000000100001#16 = .trapOut := by decide
theorem test_decode_trapPuts : decodeWord 0b1111000000100010#16 = .trapPuts := by decide
theorem test_decode_trapIn : decodeWord 0b1111000000100011#16 = .trapIn := by decide
theorem test_decode_trapPutsp : decodeWord 0b1111000000100100#16 = .trapPutsp := by decide
theorem test_decode_trapHalt : decodeWord 0b1111111100100101#16 = .trapHalt := by decide
theorem test_decode_trapUndefined : decodeWord 0b1111000000011111#16 = .trapUndefined 0x1F#8 := by decide

/-- The encoder gives the words of 95_test_vectors.md back (R97: ignored bits zero). -/
theorem test_encode : encode (.ldr 5#3 6#3 0b111111#6) = 0x6BBF#16 ∧ encode (.jmp 7#3) = 0xC1C0#16 ∧
    encode (.not 1#3 2#3) = 0x9280#16 ∧ encode .trapHalt = 0xF025#16 := by decide

theorem test_decodeWords_empty : decodeWords [] = .error .noWord := rfl
theorem test_decodeTableWord : decodeTableWord 16 0xC1C0 = some (.jmp 7#3) := by decide
theorem test_decodeTableWord_two_words : decodeTableWord 32 0xC1C0 = none := by decide

/-! One step on a small state. -/

/-- The reset state with two registers and two cells set. -/
def small (r1 : RegId) (v1 : Word) (r2 : RegId) (v2 : Word) (m : List (Word × Word)) : State :=
  m.foldl (fun s c => s.memWrite c.1 c.2) ((State.reset.writeReg r1 v1).writeReg r2 v2)

/-- The state after one step on the word `w` at the program counter, seen through `f`. -/
def stepOn {α : Type} (s : State) (w : Nat) (f : State → α) : Option α :=
  match step (s.withFetchWord 16 w) with
  | .next t => some (f t)
  | .fault _ => none
  | .refused _ => none

/-- V6: 0x7FFF + 0x0001. -/
theorem test_addReg : stepOn (small 2#3 0x7FFF#16 3#3 1#16 []) 0x1283 (fun t => (t.readReg 1#3, t.cond))
    = some (0x8000#16, 0b100#3) := by decide

/-- V6: a source that is also the destination. -/
theorem test_addReg_same : stepOn (small 3#3 0x4000#16 3#3 0x4000#16 []) 0x16C3
    (fun t => (t.readReg 3#3, t.cond)) = some (0x8000#16, 0b100#3) := by decide

/-- V7: ADD R5, R5, #15 wraps to zero. -/
theorem test_addImm : stepOn (small 5#3 0xFFF1#16 5#3 0xFFF1#16 []) 0x1B6F
    (fun t => (t.readReg 5#3, t.cond)) = some (0x0000#16, 0b010#3) := by decide

/-- V7: ADD R0, R0, #-16. -/
theorem test_addImm_negative : stepOn (small 0#3 5#16 0#3 5#16 []) 0x1030
    (fun t => (t.readReg 0#3, t.cond)) = some (0xFFF5#16, 0b100#3) := by decide

/-- V9. -/
theorem test_andReg : stepOn (small 2#3 0xF0F0#16 3#3 0x0FF0#16 []) 0x5283
    (fun t => (t.readReg 1#3, t.cond)) = some (0x00F0#16, 0b001#3) := by decide

/-- V10: AND R1, R1, #-16. -/
theorem test_andImm : stepOn (small 1#3 0x1234#16 1#3 0x1234#16 []) 0x5270
    (fun t => (t.readReg 1#3, t.cond)) = some (0x1230#16, 0b001#3) := by decide

/-- V11: NOT R4, R5. -/
theorem test_not : stepOn (small 5#3 0x8000#16 5#3 0x8000#16 []) 0x997F
    (fun t => (t.readReg 4#3, t.cond)) = some (0x7FFF#16, 0b001#3) := by decide

/-- V13: LD R2, #5. -/
theorem test_ld : stepOn (small 0#3 0#16 0#3 0#16 [(0x3006#16, 0x8001#16)]) 0x2405
    (fun t => (t.readReg 2#3, t.cond)) = some (0x8001#16, 0b100#3) := by decide

/-- V14: LDI R4, #2. -/
theorem test_ldi : stepOn (small 0#3 0#16 0#3 0#16 [(0x3003#16, 0x4000#16), (0x4000#16, 0x1234#16)])
    0xA802 (fun t => (t.readReg 4#3, t.cond)) = some (0x1234#16, 0b001#3) := by decide

/-- V15: LDR R1, R1, #31 with the address wrapping. -/
theorem test_ldr_wraps : stepOn (small 1#3 0xFFFF#16 1#3 0xFFFF#16 [(0x001E#16, 7#16)]) 0x625F
    (fun t => (t.readReg 1#3, t.cond)) = some (0x0007#16, 0b001#3) := by decide

/-- V31: LDR of KBSR with 'q' ready. -/
theorem test_ldr_polls : stepOn { small 1#3 0xFE00#16 1#3 0xFE00#16 [] with input := [.key 0x71#8] } 0x6040
    (fun t => (t.readReg 0#3, t.rawRead 0xFE00#16, t.rawRead 0xFE02#16, t.input))
    = some (0x8000#16, 0x8000#16, 0x0071#16, []) := by decide

/-- V16: LEA R3, #-2. -/
theorem test_lea : stepOn State.reset 0xE7FE (fun t => (t.readReg 3#3, t.cond))
    = some (0x2FFF#16, 0b001#3) := by decide

/-- V17: ST R1, #3. -/
theorem test_st : stepOn (small 1#3 0xBEEF#16 1#3 0xBEEF#16 []) 0x3203
    (fun t => (t.rawRead 0x3004#16, t.cond)) = some (0xBEEF#16, 0b010#3) := by decide

/-- V18: STI R5, #2. -/
theorem test_sti : stepOn (small 5#3 1#16 5#3 1#16 [(0x3003#16, 0xFFFF#16)]) 0xBA02
    (fun t => t.rawRead 0xFFFF#16) = some 0x0001#16 := by decide

/-- V39: STI R0, #0 at 0xFDFF, its pointer read a poll with 'k' ready. -/
theorem test_sti_polls : stepOn { small 0#3 0x77#16 0#3 0x77#16 [] with pc := 0xFDFF#16, input := [.key 0x6B#8] }
    0xB000 (fun t => (t.rawRead 0xFE00#16, t.rawRead 0xFE02#16, t.rawRead 0x8000#16))
    = some (0x8000#16, 0x006B#16, 0x0077#16) := by decide

/-- V19: STR R2, R3, #-1 with the address wrapping. -/
theorem test_str : stepOn (small 3#3 0#16 2#3 0xAA#16 []) 0x74FF (fun t => t.rawRead 0xFFFF#16)
    = some 0x00AA#16 := by decide

/-- V20: BRp #2 not taken with COND = Z. -/
theorem test_br_not_taken : stepOn State.reset 0x0202 (fun t => t.pc) = some 0x3001#16 := by decide

/-- V20: BRz #-1 taken with COND = Z branches to itself. -/
theorem test_br_taken : stepOn State.reset 0x05FF (fun t => t.pc) = some 0x3000#16 := by decide

/-- V21. -/
theorem test_jmp : stepOn (small 2#3 0x4000#16 2#3 0x4000#16 []) 0xC080 (fun t => t.pc)
    = some 0x4000#16 := by decide

/-- V22: JSR #-1024. -/
theorem test_jsr : stepOn State.reset 0x4C00 (fun t => (t.readReg 7#3, t.pc))
    = some (0x3001#16, 0x2C01#16) := by decide

/-- V23: JSRR R3. -/
theorem test_jsrr : stepOn (small 3#3 0x5000#16 3#3 0x5000#16 []) 0x40C0 (fun t => (t.readReg 7#3, t.pc))
    = some (0x3001#16, 0x5000#16) := by decide

/-- V23: JSRR R7 does not jump. -/
theorem test_jsrr_r7 : stepOn (small 7#3 0x5000#16 7#3 0x5000#16 []) 0x41C0
    (fun t => (t.readReg 7#3, t.pc)) = some (0x3001#16, 0x3001#16) := by decide

/-- V44. -/
theorem test_rti : stepOn State.reset 0x8FFF (fun t => (t.run, t.exitStatus, t.pc))
    = some (.faulted ⟨.rti, 0x8FFF#16, 0x3000#16⟩, some 1, 0x3001#16) := by decide

/-- V41: a fetch from KBSR with 'e' ready polls and reads RTI. -/
theorem test_fetch_polls : stepOn { State.reset with pc := 0xFE00#16, input := [.key 0x65#8] } 0
    (fun t => (t.run, t.pc, t.rawRead 0xFE02#16))
    = some (.faulted ⟨.rti, 0x8000#16, 0xFE00#16⟩, 0xFE01#16, 0x0065#16) := by decide

/-- V45. -/
theorem test_res : stepOn State.reset 0xDABC (fun t => (t.run, t.exitStatus))
    = some (.faulted ⟨.res, 0xDABC#16, 0x3000#16⟩, some 1) := by decide

/-- V25: GETC with 0xC8 ready. -/
theorem test_getc : stepOn { State.reset with input := [.key 0xC8#8] } 0xF020
    (fun t => (t.readReg 0#3, t.readReg 7#3, t.cond, t.output)) = some (0x00C8#16, 0x3001#16, 0b010#3, [])
    := by decide

/-- V58: GETC with no byte waits, R7 written. -/
theorem test_getc_waits : stepOn State.reset 0xF020 (fun t => (t.waiting, t.readReg 7#3, t.run))
    = some (some .getc, 0x3001#16, .running) := by decide

/-- V26. -/
theorem test_out : stepOn (small 0#3 0x1241#16 0#3 0x1241#16 []) 0xF021 (fun t => (t.output, t.readReg 0#3))
    = some ([0x41#8], 0x1241#16) := by decide

/-- V27: the pointer wraps past 0xFFFF. -/
theorem test_puts : stepOn (small 0#3 0xFFFF#16 0#3 0xFFFF#16 [(0xFFFF#16, 0x41#16), (0#16, 0x42#16)])
    0xF022 (fun t => t.output) = some [0x41#8, 0x42#8] := by decide

/-- V27: a string at KBSR is read without a poll. -/
theorem test_puts_raw : stepOn { small 0#3 0xFE00#16 0#3 0xFE00#16 [(0xFE00#16, 0x58#16)] with
    input := [.key 0x61#8] } 0xF022 (fun t => (t.output, t.input)) = some ([0x58#8], [.key 0x61#8]) := by decide

/-- V28, over the prompt's last two bytes. -/
theorem test_in : stepOn { State.reset with input := [.key 0x78#8] } 0xF023
    (fun t => (t.readReg 0#3, t.output.drop 17)) = some (0x0078#16, [0x3A#8, 0x20#8, 0x78#8]) := by decide

/-- V29, ZERO_WORD. -/
theorem test_putsp_zeroWord :
    stepOn (small 0#3 0x4000#16 0#3 0x4000#16 [(0x4000#16, 0x4100#16), (0x4001#16, 0x42#16)]) 0xF024
    (fun t => t.output) = some [0x00#8, 0x41#8, 0x42#8] := by decide

/-- V29, ZERO_BYTE. -/
theorem test_putsp_zeroByte :
    stepOn { small 0#3 0x4000#16 0#3 0x4000#16 [(0x4000#16, 0x41#16), (0x4001#16, 0x42#16)] with
      params := { defaultParams with putspTerm := .zeroByte } } 0xF024
    (fun t => t.output) = some [0x41#8] := by decide

/-- V30: HALT with bits 11:8 = 0001. -/
theorem test_halt : stepOn State.reset 0xF125 (fun t => (t.run, t.exitStatus, t.pc, t.output))
    = some (.halted, some 0, 0x3001#16, [0x48#8, 0x41#8, 0x4C#8, 0x54#8, 0x0A#8]) := by decide

/-- V30b. -/
theorem test_trapUndefined : stepOn State.reset 0xF0FF (fun t => (t.run, t.readReg 7#3))
    = some (.faulted ⟨.badTrap 0xFF#8, 0xF0FF#16, 0x3000#16⟩, 0x3001#16) := by decide

/-- V40: a fetch at 0xFFFF leaves pc = 0. -/
theorem test_pc_wraps : stepOn { State.reset with pc := 0xFFFF#16 } 0x1021 (fun t => (t.readReg 0#3, t.pc))
    = some (1#16, 0#16) := by decide

/-! Loader (V53, V56, V50, V54). -/

theorem test_load_drops_past_top :
    loadImage [0xFF, 0xFF, 0xAA, 0xAA, 0xBB, 0xBB] [] = .ok [(0xFFFF, 0xAAAA#16)] := rfl
theorem test_load_last_wins :
    loadImages [[0x30, 0x00, 0x11, 0x11, 0x22, 0x22], [0x30, 0x01, 0x33, 0x33]] []
      = .ok [(0x3000, 0x1111#16), (0x3001, 0x3333#16)] := rfl

/-! Witnesses: states and operands that meet the hypotheses of the statements, all together. -/

theorem witness_DecodeUndoesEncode : (Instr.addReg 7#3 0#3 5#3).wellFormed = true := by decide
theorem witness_UnreadBitsAreIgnored : (0x129B#16 : Word) ≠ 0x1283#16 ∧
    (0x129B#16 : Word) &&& readMask (decodeWord 0x1283#16) = 0x1283#16 &&& readMask (decodeWord 0x1283#16)
    := by decide
theorem witness_OnlySevenInstructionsSetCond_sets : ∃ t, exec (.addImm 0#3 0#3 1#5) State.reset = .next t ∧
    flagDest (.addImm 0#3 0#3 1#5) = some 0#3 := ⟨_, rfl, rfl⟩
theorem witness_OnlySevenInstructionsSetCond_leaves : ∃ t, exec .trapGetc State.reset = .next t ∧
    flagDest .trapGetc = none := ⟨_, rfl, rfl⟩
theorem witness_OnlyBrReadsCond : ∀ n z p off, Instr.rti ≠ .br n z p off := by intro n z p off h; cases h
theorem witness_MemReadPollsOnlyAtKbsr : (0xFE02#16 : Word) ≠ 0xFE00#16 := by decide

/-- A byte ready, then another. -/
def keyed : State := { State.reset with input := [.key 0x61#8, .key 0x62#8] }
/-- Nothing ready at the next call, a byte after it. -/
def quieted : State := { State.reset with input := [.quiet, .key 0x61#8] }

theorem witness_KeyboardPoll_key : keyed.input = .key 0x61#8 :: [.key 0x62#8] := rfl
theorem witness_KeyboardPoll_quiet : ∀ b rest, quieted.input ≠ .key b :: rest := by
  intro b rest h; cases h
theorem witness_KeyboardPoll_none : ∀ b rest, State.reset.input ≠ .key b :: rest := by
  intro b rest h; cases h
theorem witness_OnlyStoresAndPollsWriteMemory_store : ∃ t, exec (.st 0#3 0#9) State.reset = .next t ∧
    (∀ v, storeOf (.st 0#3 0#9) State.reset ≠ some (0x3001#16, v)) ∧
    (0xFE00#16 ∈ memReads (.st 0#3 0#9) State.reset → (0x3001#16 : Word) ≠ 0xFE00#16 ∧ (0x3001#16 : Word) ≠ 0xFE02#16) :=
  ⟨_, rfl, fun v h => absurd (congrArg Prod.fst (Option.some.inj h)) (by decide : (0x3000#16 : Word) ≠ 0x3001#16), by decide⟩
theorem witness_OnlyStoresAndPollsWriteMemory_poll :
    ∃ t, exec (.ldr 0#3 1#3 0#6) (State.reset.writeReg 1#3 0xFE00#16) = .next t ∧
    (∀ v, storeOf (.ldr 0#3 1#3 0#6) (State.reset.writeReg 1#3 0xFE00#16) ≠ some (0xFE01#16, v)) ∧
    0xFE00#16 ∈ memReads (.ldr 0#3 1#3 0#6) (State.reset.writeReg 1#3 0xFE00#16) :=
  ⟨_, rfl, (fun _ h => by cases h), by decide⟩
/-- A core whose abort is due at the boundary after the next. -/
def abortSoon : State := { State.reset with abortIn := some 1 }

theorem witness_StoreIsSeenByTheNextFetch : ∃ t,
    storeOf (.st 0#3 0#9) State.reset = some (0x3000#16, 0x0000#16) ∧
    exec (.st 0#3 0#9) State.reset = .next t ∧ (0x3000#16 : Word) ≠ 0xFE00#16 ∧
    (t.setPc 0x3000#16).Ready :=
  ⟨_, by decide, rfl, by decide, ⟨rfl, rfl, by decide⟩⟩
theorem witness_StoreIsSeenByTheNextFetch_abortLater : ∃ t,
    storeOf (.st 0#3 0#9) abortSoon = some (0x3000#16, 0x0000#16) ∧
    exec (.st 0#3 0#9) abortSoon = .next t ∧ (0x3000#16 : Word) ≠ 0xFE00#16 ∧
    (t.setPc 0x3000#16).Ready :=
  ⟨_, by decide, rfl, by decide, ⟨rfl, rfl, by decide⟩⟩
theorem witness_BranchTestsTheCurrentFlag : condLegal State.reset.cond = true := by decide
theorem witness_RetReturns_jsr : ∃ t, exec (.jsr 5#11) State.reset = .next t ∧
    t.readReg 7#3 = t.readReg 7#3 := ⟨_, rfl, rfl⟩
theorem witness_RetReturns_jsrr : ∃ t, exec (.jsrr 7#3) State.reset = .next t := ⟨_, rfl⟩
theorem witness_RetReturns_trap : isTrap .trapGetc = true ∧ ∃ t, exec .trapGetc State.reset = .next t :=
  ⟨rfl, _, rfl⟩
theorem witness_reset_ready : State.reset.Ready := ⟨rfl, rfl, by decide⟩
theorem witness_IllegalWords_fetch : (State.reset.memRead State.reset.pc).1 = 0x0000#16 := by decide
theorem witness_IllegalWords_faults : ∃ t r, (State.reset.withFetchWord 16 0xD000).Ready ∧
    step (State.reset.withFetchWord 16 0xD000) = .next t ∧ t.run = .faulted r :=
  ⟨_, _, ⟨rfl, rfl, by decide⟩, rfl, rfl⟩
theorem witness_blockingRead_ready : keyed.input = .key 0x61#8 :: [.key 0x62#8] ∧ keyed.waiting = none :=
  ⟨rfl, rfl⟩
theorem witness_BlockingReadWaits : ∀ b rest, quieted.input ≠ .key b :: rest :=
  witness_KeyboardPoll_quiet
theorem witness_WaitEnds_getc : ({ keyed with waiting := some .getc } : State).run = .running ∧
    ({ keyed with waiting := some .getc } : State).abortIn ≠ some 0 := by decide
theorem witness_WaitEnds_in : ({ keyed with waiting := some .inEcho, abortIn := some 1 } : State).run = .running ∧
    ({ keyed with waiting := some .inEcho, abortIn := some 1 } : State).abortIn ≠ some 0 := by decide
theorem witness_WaitEnds_quiet : ({ quieted with waiting := some .getc } : State).run = .running ∧
    ({ quieted with waiting := some .getc } : State).abortIn ≠ some 0 ∧
    ∀ c rest, ({ quieted with waiting := some .getc } : State).input ≠ .key c :: rest :=
  ⟨rfl, by decide, witness_KeyboardPoll_quiet⟩

/-- "HI" at 0x4000 (V27). -/
def hi : State := small 0#3 0x4000#16 0#3 0x4000#16 [(0x4000#16, 0x48#16), (0x4001#16, 0x49#16)]

theorem witness_PutsWrites : (∀ k, k < 2 → hi.stringWord k ≠ 0x0000#16) ∧
    hi.stringWord 2 = 0x0000#16 := by decide
theorem witness_PutsWrites_empty : (∀ k, k < 0 → State.reset.stringWord k ≠ 0x0000#16) ∧
    State.reset.stringWord 0 = 0x0000#16 := by decide
theorem witness_PutspWrites_zeroWord : hi.params.putspTerm = .zeroWord ∧
    (∀ k, k < 2 → hi.stringWord k ≠ 0x0000#16) ∧ hi.stringWord 2 = 0x0000#16 := by decide
theorem witness_PutspWrites_zeroByte :
    ({ hi with params := { defaultParams with putspTerm := .zeroByte } } : State).params.putspTerm = .zeroByte ∧
    (∀ j, j < 1 → ({ hi with params := { defaultParams with putspTerm := .zeroByte } } : State).packedByte j ≠ 0#8) ∧
    ({ hi with params := { defaultParams with putspTerm := .zeroByte } } : State).packedByte 1 = 0#8 := by decide

/-- A memory with no zero cell: every cell holds the same word. -/
def filled (v : Word) : Memory := (List.range memCells).map fun a => (a, v)

theorem read_map_of_mem (v : Word) : ∀ (l : List Nat) (a : Nat), a ∈ l →
    Memory.read (l.map fun a => (a, v)) a = v
  | b :: l, a, h => by
    by_cases hab : a = b
    · simp [Memory.read, hab]
    · simpa [Memory.read, hab] using read_map_of_mem v l a (by simpa [hab] using h)

theorem read_filled (v a : Word) : Memory.read (filled v) a.toNat = v :=
  read_map_of_mem v _ _ (List.mem_range.mpr a.isLt)

/-- The reset state over a memory. -/
def onMem (m : Memory) : State := { State.reset with mem := m }

theorem onMem_fetch (m : Memory) : (onMem m).tickAbort.fetch =
    { onMem m with pc := 0x3001#16, ir := Memory.read m 0x3000 } := rfl

theorem onMem_step (m : Memory) : step (onMem m) =
    exec (decodeWord (onMem m).tickAbort.fetch.ir) (onMem m).tickAbort.fetch := rfl

/-- A word that ends no string in every cell: PUTS never ends. -/
theorem onMem_puts (m : Memory) (h : ∀ a : Word, Memory.read m a.toNat = 0xF022#16) :
    step (onMem m) = .fault .stringNeverEnds := by
  have hw := State.putsWalk_none (s := (onMem m).tickAbort.fetch.link)
    (fun a => (h a).trans_ne (by decide)) memCells ((onMem m).tickAbort.fetch.link.readReg reg0)
  have hi : (onMem m).tickAbort.fetch.ir = 0xF022#16 := h 0x3000#16
  rw [onMem_step, hi, show decodeWord 0xF022#16 = .trapPuts by decide]
  show State.writeString _ _ = _
  rw [hw]
  rfl

/-- Every cell holds 0xF022, the word of PUTS: nothing ends a string, under either setting. -/
@[irreducible] def endlessMem : Memory := filled 0xF022#16

theorem endlessMem_read (a : Word) : Memory.read endlessMem a.toNat = 0xF022#16 := by
  unfold endlessMem; exact read_filled 0xF022#16 a

/-- The reset state over that memory. -/
def endless : State := onMem endlessMem

theorem endless_reads (a : Word) : endless.rawRead a = 0xF022#16 := endlessMem_read a

theorem witness_StringRoutines_zero : ∃ a, State.reset.rawRead a = 0x0000#16 := ⟨0#16, rfl⟩
theorem witness_StringRoutines_endless : ∀ a, endless.rawRead a ≠ 0x0000#16 := by
  intro a; rw [endless_reads]; decide
theorem witness_StringRoutines_zeroByte :
    (∃ a, lowByte (hi.rawRead a) = 0#8 ∨ highByte (hi.rawRead a) = 0#8) ∧
    ∀ a, lowByte (endless.rawRead a) ≠ 0#8 ∧ highByte (endless.rawRead a) ≠ 0#8 :=
  ⟨⟨0x4000#16, .inr (by decide)⟩, fun a => by rw [endless_reads]; decide⟩
theorem witness_OnlyAnEndlessStringStops : step endless = .fault .stringNeverEnds :=
  onMem_puts endlessMem endlessMem_read

theorem witness_TrapsWriteOnly : isTrap .trapHalt = true ∧ ∃ t, exec .trapHalt State.reset = .next t :=
  ⟨rfl, _, rfl⟩
theorem witness_TrapsWriteOnly_out : Instr.trapOut ≠ .trapGetc ∧ Instr.trapOut ≠ .trapIn ∧
    Instr.trapOut ≠ .trapHalt ∧ (∀ v, Instr.trapOut ≠ .trapUndefined v) ∧
    ∃ t, exec .trapOut State.reset = .next t :=
  ⟨by decide, by decide, by decide, (fun v h => by cases h), _, rfl⟩
theorem witness_StepRuns : State.reset.Ready ∧ (Instr.br false false false 0#9).wellFormed = true ∧
    decodeWord (State.reset.memRead State.reset.pc).1 = .br false false false 0#9 :=
  ⟨⟨rfl, rfl, by decide⟩, by decide, by decide⟩
theorem witness_TerminalStates : State.reset.halt.run ≠ .running := by decide
theorem witness_AbortEndsTheRun : ({ State.reset with abortIn := some 0 } : State).run = .running := rfl
theorem witness_InvariantHolds_memory : Memory.wf [(0x3000, 0xF025#16)] = true := by decide
theorem witness_EveryStepKeeps : State.reset.Inv ∧ ∃ t, step State.reset = .next t :=
  ⟨⟨by decide, by decide, rfl, fun h => absurd rfl h, fun h => absurd rfl h⟩, _, rfl⟩
theorem witness_ConsoleStreams : ∃ t, step keyed = .next t := ⟨_, rfl⟩
theorem witness_Loader : 2 * 0 + 1 < [0x12#8, 0x34#8, 0x56#8].length ∧
    (0x30#8 ++ 0x00#8 : Word).toNat + 0 < 65536 := by decide
theorem witness_StartUp_overlap :
    (∀ b ∈ [[0x30#8, 0x00#8, 0x11#8, 0x11#8, 0x22#8, 0x22#8], [0x30#8, 0x01#8, 0x33#8, 0x33#8]],
      2 ≤ b.length) ∧
    imageWord [0x30#8, 0x00#8, 0x11#8, 0x11#8, 0x22#8, 0x22#8] 0x3001 = some 0x2222#16 ∧
    imageWord [0x30#8, 0x01#8, 0x33#8, 0x33#8] 0x3001 = some 0x3333#16 := by decide
theorem witness_StartUp_top :
    imageWord [0xFF#8, 0xFF#8, 0xAA#8, 0xAA#8, 0xBB#8, 0xBB#8] 0xFFFF = some 0xAAAA#16 ∧
    imageWord [0xFF#8, 0xFF#8, 0xAA#8, 0xAA#8, 0xBB#8, 0xBB#8] 0x10000 = none := by decide
theorem witness_StartUp : (∃ b ∈ [[0x30#8]], b.length < 2) ∧
    ∀ b ∈ [[0x30#8, 0x00#8, 0xF0#8, 0x25#8]], 2 ≤ b.length := by decide

end Sys2Proof.Tests
end

section
/-! Sign extension (00_scope.md R10). The four operand forms `sext5`, `sext6`, `sext9` and `sext11`
are one function at four widths, so R10 is proved once for every width up to 16. -/

namespace Sys2Proof.Machine

variable {n : Nat}

/-- R10's formula: a field whose top bit is set gains the ones above it, `0x10000 - 2 ^ n`. -/
theorem toNat_signExtend_word (h : n ≤ 16) (v : BitVec n) :
    (v.signExtend 16).toNat = if v.msb then v.toNat + (0x10000 - 2 ^ n) else v.toNat := by
  rw [BitVec.toNat_signExtend, BitVec.toNat_setWidth_of_le h]
  split <;> rfl

/-- R10's signed reading: the top bit of the field counts `-2 ^ n` on top of the unsigned value. -/
theorem toInt_signExtend_word (h : n ≤ 16) (v : BitVec n) :
    (v.signExtend 16).toInt = (v.toNat : Int) - 2 ^ n * (if v.msb then 1 else 0) := by
  rw [BitVec.toInt_signExtend_of_le h, BitVec.toInt_eq_msb_cond]
  cases v.msb <;> simp

/-- Settles O7: both readings of R10, at the width of each of the four operand forms. -/
theorem signExtensionIsR10 : Obligations.SignExtensionIsR10 := by
  unfold Obligations.SignExtensionIsR10 sext5 sext6 sext9 sext11
  have r10 {n : Nat} (h : n ≤ 16) (v : BitVec n) :=
    And.intro (toNat_signExtend_word h v) (toInt_signExtend_word h v)
  exact ⟨r10 (by decide), r10 (by decide), r10 (by decide), r10 (by decide)⟩

end Sys2Proof.Machine
end

section
/-! Start-up, `setcc` and the terminal states (10_state.md R27, R33, R37, R39; 60_exceptions.md R244). -/

namespace Sys2Proof.Machine

/-- R27's three cases by the unsigned value: bit 15 is set from 0x8000 on. -/
theorem condOf_eq_toNat (v : Word) :
    condOf v = if v.toNat = 0 then 0b010#3 else if 0x8000 ≤ v.toNat then 0b100#3 else 0b001#3 := by
  have hzero : v = 0x0000#16 ↔ v.toNat = 0 := by simp [BitVec.toNat_eq]
  have hsign : v.getLsbD 15 = true ↔ 0x8000 ≤ v.toNat := by
    rw [← BitVec.msb_eq_getLsbD_last v, BitVec.msb_eq_decide]; simp
  simp only [condOf, hzero, hsign]
  rfl

/-- Settles O8: `setcc` writes COND alone, and the flag is R27's. -/
theorem setccSelectsBySign : Obligations.SetccSelectsBySign := by
  unfold Obligations.SetccSelectsBySign
  intro s v
  rw [← condOf_eq_toNat]
  rfl

/-- Settles O56: every field of the start-up state is given by `State.boot` itself. -/
theorem resetLeavesTheStartState : Obligations.ResetLeavesTheStartState := by
  unfold Obligations.ResetLeavesTheStartState
  exact fun p pc regs m => ⟨rfl, rfl, rfl, rfl, rfl, rfl, fun _ => rfl, fun _ => rfl⟩

/-- The model's step of a terminal state answers the same state (log 14). -/
theorem step_terminal {s : State} (h : s.run ≠ .running) : step s = .next s := by
  obtain ⟨-, hs⟩ | ⟨hr, -⟩ | ⟨r, hr, -⟩ | ⟨⟨hr, -⟩, -⟩ := step_cases s
  · exact hs
  all_goals exact absurd hr h

/-- Settles O50, by induction on the number of steps. -/
theorem terminalStatesAreNeverLeft : Obligations.TerminalStatesAreNeverLeft := by
  unfold Obligations.TerminalStatesAreNeverLeft
  intro k s h
  induction k with
  | zero => rfl
  | succ k ih =>
    have hstep : Sys2Proof.core.step s = .next s := step_terminal h
    simpa only [Host.Core.run, hstep] using ih

end Sys2Proof.Machine
end

section
/-! The invariant of the machine at start-up and through every step (10_state.md R26, R33; 20_memory.md R50;
60_exceptions.md R246). The operations of an instruction are shown to keep `State.Idle`, which has no
clause on R7 and PC; an instruction that ends the run or starts a wait leaves it for `State.Inv`. -/

namespace Sys2Proof.Machine

/-- A core that does not wait meets the invariant when its memory, COND and exit status do. -/
theorem State.inv_of_not_waiting {s : State} (hw : s.waiting = none) (hm : s.mem.wf = true)
    (hc : condLegal s.cond = true) (he : s.ExitMatches) : s.Inv :=
  ⟨hm, hc, he, fun h => absurd hw h, fun h => absurd hw h⟩

theorem State.boot_inv (p : Params) (pc : Word) (regs : Vector Word 8) {m : Memory}
    (hm : m.wf = true) : (State.boot p pc regs m).Inv :=
  State.inv_of_not_waiting rfl hm rfl rfl

/-- Settles O52: reset is the start-up state over the empty memory. -/
theorem invariantHoldsAtReset : Obligations.InvariantHoldsAtReset := by
  unfold Obligations.InvariantHoldsAtReset
  exact ⟨State.boot_inv _ _ _ rfl, fun p pc regs m hm => State.boot_inv p pc regs hm⟩

/-- The invariant of a running core between two effects of an instruction: it does not wait, so R7 and
PC are free. -/
structure State.Idle (s : State) : Prop where
  mem_wf : s.mem.wf = true
  cond_legal : condLegal s.cond = true
  running : s.run = .running
  no_exit : s.exitStatus = none
  not_waiting : s.waiting = none

theorem State.exitMatches_of_running {s : State} (hr : s.run = .running) :
    s.ExitMatches ↔ s.exitStatus = none := by
  simp [State.ExitMatches, hr]

theorem State.Idle.inv {s : State} (h : s.Idle) : s.Inv :=
  State.inv_of_not_waiting h.not_waiting h.mem_wf h.cond_legal
    ((State.exitMatches_of_running h.running).mpr h.no_exit)

theorem State.Inv.idle {s : State} (h : s.Inv) (hr : s.run = .running) (hw : s.waiting = none) :
    s.Idle :=
  ⟨h.mem_wf, h.cond_legal, hr, (State.exitMatches_of_running hr).mp h.exit_matches, hw⟩

/-! What the operations keep of it. -/

section
variable {s : State} (h : s.Idle)
include h

theorem State.Idle.writeReg (r : RegId) (v : Word) : (s.writeReg r v).Idle := { h with }
theorem State.Idle.setPc (a : Word) : (s.setPc a).Idle := { h with }
theorem State.Idle.link : s.link.Idle := h.writeReg reg7 s.pc
theorem State.Idle.writeChars (bs : List Byte) : (s.writeChars bs).Idle := { h with }
theorem State.Idle.tickAbort : s.tickAbort.Idle := { h with }

theorem State.Idle.writeResult (dr : RegId) (v : Word) : (s.writeResult dr v).Idle :=
  { h with cond_legal := condOf_legal v }

theorem State.Idle.memWrite (a v : Word) : (s.memWrite a v).Idle :=
  { h with mem_wf := State.memWrite_wf h.mem_wf a v }

theorem State.Idle.readEffect (a : Word) : (s.readEffect a).Idle where
  mem_wf := State.readEffect_wf h.mem_wf a
  cond_legal := by simpa using h.cond_legal
  running := by simpa using h.running
  no_exit := by simpa using h.no_exit
  not_waiting := by simpa using h.not_waiting

theorem State.Idle.fetch : s.fetch.Idle := { h.readEffect s.pc with }

theorem State.Idle.loadInto (dr : RegId) (a : Word) : (s.loadInto dr a).Idle :=
  (h.readEffect a).writeResult dr _

theorem State.Idle.halt_inv : s.halt.Inv :=
  State.inv_of_not_waiting h.not_waiting h.mem_wf h.cond_legal rfl

theorem State.Idle.raiseFault_inv (c : FaultCause) : (s.raiseFault c).Inv :=
  State.inv_of_not_waiting h.not_waiting h.mem_wf h.cond_legal rfl

end

theorem State.Inv.takeAbort {s : State} (h : s.Inv) : s.takeAbort.Inv :=
  State.inv_of_not_waiting rfl h.mem_wf h.cond_legal rfl

theorem State.Inv.tickAbort {s : State} (h : s.Inv) : s.tickAbort.Inv := { h with }

/-- A blocking read ends with no wait, or waits with the link that stood before it: TRAP's entry made
it, or the wait under way kept it (R200, R246). -/
theorem State.Inv.blockingRead {s : State} (h : s.Inv) (hr : s.run = .running)
    (hl : s.readReg reg7 = s.pc) (r : ReadRoutine) : (s.blockingRead r).Inv := by
  obtain ⟨b, rest, -, hb⟩ | ⟨-, hb⟩ := s.blockingRead_cases r
  · rw [hb]
    apply State.inv_of_not_waiting (by simp) (by simpa using h.mem_wf) (by simpa using h.cond_legal)
    simpa [State.exitMatches_of_running, hr] using h.exit_matches
  · rw [hb]
    exact ⟨h.mem_wf, h.cond_legal, h.exit_matches, fun _ => hr, fun _ => hl⟩

/-- If PUTS or PUTSP answers a next state, it has only written bytes. -/
theorem State.writeString_next {s t : State} {walk : Option (List Byte)}
    (h : s.writeString walk = .next t) : ∃ bs, t = s.writeChars bs := by
  obtain ⟨bs, -, hn⟩ | ⟨-, hf⟩ := s.writeString_cases walk
  · exact ⟨bs, Host.Outcome.next.inj (h.symm.trans hn)⟩
  · cases h.symm.trans hf

/-- An instruction run on an idle core answers a state that meets the invariant. -/
theorem exec_inv {i : Instr} {s t : State} (h : s.Idle) (he : exec i s = .next t) : t.Inv := by
  have hlinked : s.link.readReg reg7 = s.link.pc := by simp [State.readReg_link]
  cases i with
  | trapPuts | trapPutsp =>
    obtain ⟨bs, rfl⟩ := State.writeString_next he
    exact (h.link.writeChars bs).inv
  | br n z p off =>
    cases he
    split
    · exact (h.setPc _).inv
    · exact h.inv
  | jmp => cases he; exact (h.setPc _).inv
  | jsr | jsrr => cases he; exact (h.link.setPc _).inv
  | addReg | addImm | andReg | andImm | not | lea => cases he; exact (h.writeResult _ _).inv
  | ld | ldr => cases he; exact (h.loadInto _ _).inv
  | ldi => obtain rfl := Host.Outcome.next.inj he; exact ((h.readEffect _).loadInto _ _).inv
  | st | str => cases he; exact (h.memWrite _ _).inv
  | sti => cases he; exact ((h.readEffect _).memWrite _ _).inv
  | rti | res => cases he; exact h.raiseFault_inv _
  | trapUndefined => cases he; exact h.link.raiseFault_inv _
  | trapOut => cases he; exact (h.link.writeChars _).inv
  | trapHalt => cases he; exact (h.link.writeChars _).halt_inv
  | trapGetc => cases he; exact h.link.inv.blockingRead h.running hlinked _
  | trapIn => cases he; exact (h.link.writeChars _).inv.blockingRead h.running hlinked _

/-- Settles O53, along the four ways a step answers. -/
theorem everyStepKeepsTheInvariant : Obligations.EveryStepKeepsTheInvariant := by
  unfold Obligations.EveryStepKeepsTheInvariant
  intro s t h he
  obtain ⟨-, hs⟩ | ⟨-, -, hs⟩ | ⟨r, hr, -, hw, hs⟩ | ⟨⟨hr, hw, -⟩, hs⟩ := step_cases s <;>
    rw [hs] at he
  · cases he
    exact h
  · cases he
    exact h.takeAbort
  · cases he
    exact h.tickAbort.blockingRead hr (h.wait_linked (by simp [hw])) r
  · exact exec_inv (h.idle hr hw).tickAbort.fetch he

end Sys2Proof.Machine
end

section
/-! Who writes COND and who reads it (10_state.md R28 to R30). -/

namespace Sys2Proof.Machine

/-- The seven flag-setting instructions end in `x[DR] <- v; setcc(v)` (R28). -/
theorem exec_flagDest {i : Instr} {dr : RegId} (hd : flagDest i = some dr) (s : State) :
    ∃ (s' : State) (v : Word), exec i s = .next (s'.writeResult dr v) := by
  cases i with
  | addReg | addImm | andReg | andImm | not | lea | ld | ldi | ldr => cases hd; exact ⟨_, _, rfl⟩
  | _ => cases hd

theorem State.writeResult_cond_eq (s : State) (dr : RegId) (v : Word) :
    (s.writeResult dr v).cond = condOf ((s.writeResult dr v).readReg dr) := by
  simp [State.readReg_writeResult]

/-- Every other instruction leaves COND (R29). -/
theorem exec_cond_of_no_flagDest {i : Instr} {s t : State} (hd : flagDest i = none)
    (he : exec i s = .next t) : t.cond = s.cond := by
  cases i with
  | trapPuts | trapPutsp =>
    obtain ⟨bs, rfl⟩ := State.writeString_next he
    rfl
  | br n z p off => cases he; split <;> rfl
  | trapGetc | trapIn | sti => cases he; simp
  | jmp | jsr | jsrr | st | str | rti | res | trapOut | trapHalt | trapUndefined => cases he; rfl
  | addReg | addImm | andReg | andImm | not | lea | ld | ldi | ldr => cases hd

/-- Settles O9: the seven end in `writeResult`, the others leave COND. -/
theorem onlySevenInstructionsSetCond : Obligations.OnlySevenInstructionsSetCond := by
  unfold Obligations.OnlySevenInstructionsSetCond
  intro i s t he
  cases hd : flagDest i with
  | some dr =>
    obtain ⟨s', v, hs⟩ := exec_flagDest hd s
    cases he.symm.trans hs
    exact s'.writeResult_cond_eq dr v
  | none => exact exec_cond_of_no_flagDest hd he

/-- The state with another COND. -/
def State.withCond (s : State) (c : BitVec 3) : State := { s with cond := c }

section
variable (s : State) (c : BitVec 3)

theorem State.withCond_input : (s.withCond c).input = s.input := rfl

theorem State.rawRead_withCond (a : Word) : (s.withCond c).rawRead a = s.rawRead a := rfl

theorem State.kbPoll_withCond : (s.withCond c).kbPoll = s.kbPoll.withCond c := by
  unfold State.kbPoll
  rw [State.withCond_input]
  split <;> rfl

theorem State.memRead_withCond (a : Word) :
    (s.withCond c).memRead a = ((s.memRead a).1, (s.memRead a).2.withCond c) := by
  by_cases ha : a = kbsr
  · simp [State.memRead, ha, State.kbPoll_withCond, State.rawRead_withCond]
  · simp [State.memRead, State.readEffect_of_ne ha, State.rawRead_withCond]

/-- A load overwrites COND, so it forgets the one before. -/
theorem State.loadInto_withCond (dr : RegId) (a : Word) :
    (s.withCond c).loadInto dr a = s.loadInto dr a := by
  unfold State.loadInto
  rw [State.memRead_withCond]
  rfl

theorem State.blockingRead_withCond (r : ReadRoutine) :
    (s.withCond c).blockingRead r = (s.blockingRead r).withCond c := by
  unfold State.blockingRead
  rw [State.withCond_input]
  split
  · cases r <;> rfl
  all_goals rfl

theorem State.putsWalk_withCond : ∀ (n : Nat) (a : Word),
    (s.withCond c).putsWalk n a = s.putsWalk n a
  | 0, _ => rfl
  | n + 1, a => by
    simp only [State.putsWalk, State.rawRead_withCond, State.putsWalk_withCond n]

theorem State.putspWalk_withCond : ∀ (n : Nat) (a : Word),
    (s.withCond c).putspWalk n a = s.putspWalk n a
  | 0, _ => rfl
  | n + 1, a => by
    have hp : (s.withCond c).params = s.params := rfl
    simp only [State.putspWalk, State.rawRead_withCond, hp, State.putspWalk_withCond n]

end

/-- Two answers alike up to COND: next states that differ at most there, or the same fault. -/
def AgreeButCond (o o' : Host.Outcome State Fault Refusal) : Prop :=
  (∃ t d, o = .next t ∧ o' = .next (t.withCond d)) ∨ ∃ r, o = .fault r ∧ o' = .fault r

theorem agreeButCond_next {t t' : State} (d : BitVec 3) (h : t' = t.withCond d) :
    AgreeButCond (.next t) (.next t') :=
  .inl ⟨t, d, rfl, congrArg _ h⟩

theorem agreeButCond_same {t t' : State} (h : t' = t) : AgreeButCond (.next t) (.next t') :=
  agreeButCond_next t.cond h

theorem State.writeString_withCond (s : State) (c : BitVec 3) {walk walk' : Option (List Byte)}
    (hw : walk' = walk) : AgreeButCond (s.writeString walk) ((s.withCond c).writeString walk') := by
  subst hw
  cases walk' with
  | some bs => exact agreeButCond_next c rfl
  | none => exact .inr ⟨_, rfl, rfl⟩

/-- Only BR's test reads COND: the seven flag-setting instructions overwrite it, the others carry it
along (R28 to R30). -/
theorem exec_withCond {i : Instr} (hi : ∀ n z p off, i ≠ .br n z p off) (s : State)
    (c : BitVec 3) : AgreeButCond (exec i s) (exec i (s.withCond c)) := by
  cases i with
  | br n z p off => exact absurd rfl (hi n z p off)
  | addReg | addImm | andReg | andImm | not | lea => exact agreeButCond_same rfl
  | ld | ldr => exact agreeButCond_same (s.loadInto_withCond c _ _)
  | ldi =>
    apply agreeButCond_same
    rw [State.memRead_withCond]
    exact State.loadInto_withCond _ c _ _
  | sti =>
    apply agreeButCond_next c
    rw [State.memRead_withCond]
    rfl
  | jmp | jsr | jsrr | st | str | rti | res | trapOut | trapHalt | trapUndefined =>
    exact agreeButCond_next c rfl
  | trapGetc => exact agreeButCond_next c (s.link.blockingRead_withCond c _)
  | trapIn => exact agreeButCond_next c ((s.link.writeChars _).blockingRead_withCond c _)
  | trapPuts => exact s.link.writeString_withCond c (s.link.putsWalk_withCond c memCells _)
  | trapPutsp => exact s.link.writeString_withCond c (s.link.putspWalk_withCond c memCells _)

/-- Settles O10: answers alike up to COND are what the statement asks for. -/
theorem onlyBrReadsCond : Obligations.OnlyBrReadsCond := by
  unfold Obligations.OnlyBrReadsCond
  intro i s c hi
  have hagree : AgreeButCond (exec i s) (exec i { s with cond := c }) := exec_withCond hi s c
  obtain ⟨t, d, h, h'⟩ | ⟨r, h, h'⟩ := hagree
  · rw [h, h']
    rfl
  · rw [h, h']

end Sys2Proof.Machine
end

section
/-! MemRead, the keyboard poll and the plain stores (20_memory.md R52 to R57, R62, R69, R71). The
statements name KBSR and KBDR by their addresses, 0xFE00 and 0xFE02. -/

namespace Sys2Proof.Machine

theorem State.memRead_of_ne {a : Word} (h : a ≠ kbsr) (s : State) :
    s.memRead a = (s.rawRead a, s) := by
  unfold State.memRead
  rw [State.readEffect_of_ne h]

theorem State.memRead_kbsr (s : State) : s.memRead kbsr = (s.kbPoll.rawRead kbsr, s.kbPoll) := by
  unfold State.memRead
  rw [State.readEffect_kbsr]

/-- Settles O24: the two cases of R53. -/
theorem memReadPollsOnlyAtKbsr : Obligations.MemReadPollsOnlyAtKbsr := by
  unfold Obligations.MemReadPollsOnlyAtKbsr
  intro s a
  refine ⟨fun h => State.memRead_of_ne h s, ?_⟩
  rintro rfl
  exact s.memRead_kbsr

/-! The two outcomes of a poll. -/

section
variable {s : State}

/-- With a byte ready the poll latches it and consumes it (R54). -/
theorem State.kbPoll_of_key {b : Byte} {rest : List HostTurn} (h : s.input = .key b :: rest) :
    s.kbPoll = ({ s with input := rest }.memWrite kbsr 0x8000#16).memWrite kbdr (zext16 b) := by
  unfold State.kbPoll
  rw [h]

/-- With no byte ready the poll clears KBSR alone (R54). -/
theorem State.kbPoll_of_no_key (h : ∀ b rest, s.input ≠ .key b :: rest) :
    s.kbPoll = { s with input := s.input.tail }.memWrite kbsr 0x0000#16 := by
  obtain ⟨b, rest, hk, -⟩ | ⟨-, hp⟩ := s.kbPoll_cases
  · exact absurd hk (h b rest)
  · exact hp

theorem State.kbPoll_input_of_key {b : Byte} {rest : List HostTurn}
    (h : s.input = .key b :: rest) : s.kbPoll.input = rest := by
  rw [State.kbPoll_of_key h]
  rfl

theorem State.kbPoll_latches {b : Byte} {rest : List HostTurn} (h : s.input = .key b :: rest) :
    s.kbPoll.rawRead kbsr = 0x8000#16 ∧ s.kbPoll.rawRead kbdr = zext16 b := by
  have hne : kbsr ≠ kbdr := by decide
  rw [State.kbPoll_of_key h]
  simp [hne]

theorem State.kbPoll_clears (h : ∀ b rest, s.input ≠ .key b :: rest) :
    s.kbPoll.rawRead kbsr = 0x0000#16 ∧ s.kbPoll.rawRead kbdr = s.rawRead kbdr ∧
      comingBytes s.kbPoll.input = comingBytes s.input := by
  have hne : kbdr ≠ kbsr := by decide
  rw [State.kbPoll_of_no_key h]
  refine ⟨State.rawRead_memWrite_same _ _ _, ?_, comingBytes_tail h⟩
  rw [State.rawRead_memWrite_other hne]
  rfl

/-- Two MemReads of KBSR are two polls, so they consume two ready bytes. -/
theorem State.memRead_kbsr_twice_input {b c : Byte} {rest : List HostTurn}
    (h : s.input = .key b :: .key c :: rest) :
    ((s.memRead kbsr).2.memRead kbsr).2.input = rest := by
  rw [State.memRead_kbsr, State.memRead_kbsr]
  exact State.kbPoll_input_of_key (State.kbPoll_input_of_key h)

end

theorem State.kbPoll_memKept (s : State) : memKept [kbsr, kbdr] s s.kbPoll :=
  s.readEffect_memKept kbsr

/-- Settles O25: a poll latches a ready byte or clears KBSR, and leaves the rest of the state. -/
theorem keyboardPollWritesKbsrAndKbdr : Obligations.KeyboardPollWritesKbsrAndKbdr := by
  unfold Obligations.KeyboardPollWritesKbsrAndKbdr
  intro s
  refine ⟨fun b rest h => ?_, fun h => State.kbPoll_clears h,
    fun b c rest h => State.memRead_kbsr_twice_input h, s.kbPoll_memKept,
    fun r _ => s.readReg_kbPoll r, s.kbPoll_pc, s.kbPoll_cond, s.kbPoll_output,
    ⟨s.kbPoll_run, s.kbPoll_exitStatus, s.kbPoll_waiting⟩,
    ⟨s.kbPoll_ir, s.kbPoll_abortIn, s.kbPoll_params⟩⟩
  obtain ⟨hsr, hdr⟩ := State.kbPoll_latches h
  exact ⟨hsr, hdr, State.kbPoll_input_of_key h⟩

/-- A poll overwrites KBSR in both outcomes, so it forgets what a store left there (R56). -/
theorem State.kbPoll_memWrite_kbsr (s : State) (v : Word) :
    (s.memWrite kbsr v).kbPoll = s.kbPoll := by
  obtain ⟨b, rest, h, hp⟩ | ⟨h, hp⟩ := s.kbPoll_cases
  · rw [hp, State.kbPoll_of_key (s := s.memWrite kbsr v) h]
    exact congrArg (State.memWrite · kbdr (zext16 b))
      (State.memWrite_memWrite { s with input := rest } kbsr v 0x8000#16)
  · rw [hp, State.kbPoll_of_no_key (s := s.memWrite kbsr v) h]
    exact State.memWrite_memWrite { s with input := s.input.tail } kbsr v 0x0000#16

/-- Settles O26: a MemRead of KBSR polls over the stored word; KBDR is a plain cell. -/
theorem storedKbsrIsNeverRead : Obligations.StoredKbsrIsNeverRead := by
  unfold Obligations.StoredKbsrIsNeverRead
  intro s v
  refine ⟨State.rawRead_memWrite_same _ _ _, ?_, ?_⟩
  · calc (s.memWrite kbsr v).memRead kbsr
      _ = ((s.memWrite kbsr v).kbPoll.rawRead kbsr, (s.memWrite kbsr v).kbPoll) :=
          State.memRead_kbsr _
      _ = (s.kbPoll.rawRead kbsr, s.kbPoll) := by rw [State.kbPoll_memWrite_kbsr]
      _ = s.memRead kbsr := s.memRead_kbsr.symm
  · rw [State.memRead_of_ne (by decide), State.rawRead_memWrite_same]

/-! Who writes memory. -/

/-- A MemRead keeps a cell that its poll, if it polls, does not touch. -/
theorem State.rawRead_readEffect {a b : Word} (h : b = kbsr → a ≠ kbsr ∧ a ≠ kbdr) (s : State) :
    (s.readEffect b).rawRead a = s.rawRead a := by
  apply s.readEffect_memKept b
  unfold readTouches
  split
  · next hb => simpa using h hb
  · simp

/-- ST, STR and STI end in their store (R164 to R166). -/
theorem exec_storeOf {i : Instr} {s : State} {a v : Word} (h : storeOf i s = some (a, v)) :
    ∃ s' : State, exec i s = .next (s'.memWrite a v) := by
  cases i with
  | st | str | sti => cases h; exact ⟨_, rfl⟩
  | _ => cases h

/-- A cell that no store of the instruction names and no poll of its MemReads touches is kept
(R52, R71). -/
theorem exec_rawRead {i : Instr} {s t : State} {a : Word} (he : exec i s = .next t)
    (hs : ∀ v, storeOf i s ≠ some (a, v)) (hr : kbsr ∈ memReads i s → a ≠ kbsr ∧ a ≠ kbdr) :
    t.rawRead a = s.rawRead a := by
  have hread {b : Word} (hb : b ∈ memReads i s) (s' : State) :
      (s'.readEffect b).rawRead a = s'.rawRead a :=
    State.rawRead_readEffect (fun h => hr (h ▸ hb)) s'
  have hstore {b v : Word} (hb : storeOf i s = some (b, v)) (s' : State) :
      (s'.memWrite b v).rawRead a = s'.rawRead a := by
    have hne : a ≠ b := fun h => hs v (h ▸ hb)
    exact State.rawRead_memWrite_other hne s' v
  cases i with
  | st | str => cases he; exact hstore rfl s
  | sti sr off =>
    cases he
    exact (hstore rfl _).trans (hread (List.mem_singleton.mpr rfl) s)
  | ld | ldr => cases he; exact hread (List.mem_singleton.mpr rfl) s
  | ldi dr off =>
    obtain rfl := Host.Outcome.next.inj he
    calc ((s.readEffect (s.pcRel9 off)).loadInto dr (s.memRead (s.pcRel9 off)).1).rawRead a
      _ = (s.readEffect (s.pcRel9 off)).rawRead a := hread (.tail _ (.head _)) _
      _ = s.rawRead a := hread (.head _) s
  | trapPuts | trapPutsp =>
    obtain ⟨bs, rfl⟩ := State.writeString_next he
    rfl
  | br n z p off => cases he; split <;> rfl
  | trapGetc | trapIn => cases he; exact State.rawRead_blockingRead _ _ _
  | addReg | addImm | andReg | andImm | not | lea | jmp | jsr | jsrr | rti | res | trapOut
  | trapHalt | trapUndefined => cases he; rfl

/-- Settles O27: `exec_rawRead`, with KBSR and KBDR by their addresses. -/
theorem onlyStoresAndPollsWriteMemory : Obligations.OnlyStoresAndPollsWriteMemory := by
  unfold Obligations.OnlyStoresAndPollsWriteMemory
  exact fun i s t a he hs hr => exec_rawRead he hs hr

/-! The fetch after a store. -/

theorem State.fetch_of_ne {s : State} (h : s.pc ≠ kbsr) :
    s.fetch = { s with pc := s.pc + 1#16, ir := s.rawRead s.pc } := by
  unfold State.fetch
  rw [State.memRead_of_ne h]

/-- A ready core's step runs the fetched instruction (R274). -/
theorem step_of_ready {s : State} (h : s.Ready) :
    step s = exec (decodeWord s.tickAbort.fetch.ir) s.tickAbort.fetch := by
  obtain ⟨hrun, hwait, habort⟩ := h
  obtain ⟨hr, -⟩ | ⟨-, ha, -⟩ | ⟨r, -, -, hw, -⟩ | ⟨-, hs⟩ := step_cases s
  · exact absurd hrun hr
  · exact absurd ha habort
  · cases hwait.symm.trans hw
  · exact hs

/-- Settles O28: the store is the instruction's last effect, so the fetch at its address reads the
word stored (R69). -/
theorem storeIsSeenByTheNextFetch : Obligations.StoreIsSeenByTheNextFetch := by
  unfold Obligations.StoreIsSeenByTheNextFetch
  intro i s t a v hs he ha hready
  have hread : t.rawRead a = v := by
    obtain ⟨s', hs'⟩ := exec_storeOf hs
    obtain rfl := Host.Outcome.next.inj (he.symm.trans hs')
    exact s'.rawRead_memWrite_same a v
  have hfetch : (t.setPc a).tickAbort.fetch = { t with
      pc := a + 1#16, ir := v, abortIn := t.abortIn.map fun n => n - 1 } := by
    rw [← hread]
    exact State.fetch_of_ne ha
  rw [step_of_ready hready, hfetch]

end Sys2Proof.Machine
end

section
/-! The decoder's equations, one per opcode and mode bit (30_encoding.md R81, R82, R96, R100). -/

namespace Sys2Proof

/-- The 16 opcodes stand in the order of their numbers (R82). -/
theorem ctorIdx_opcodeOfBits (b : BitVec 4) : (opcodeOfBits b).ctorIdx = b.toNat := by
  revert b
  decide

theorem opcodeField_of {w : Word} {o : Opcode} (h : opcodeOfBits (opcodeField w) = o) :
    opcodeField w = BitVec.ofNat 4 o.ctorIdx := by
  rw [← h, ctorIdx_opcodeOfBits, BitVec.ofNat_toNat, BitVec.setWidth_eq]

theorem opcode_number_of {w : Word} {o : Opcode} (h : opcodeOfBits (opcodeField w) = o) :
    w.toNat / 4096 = o.ctorIdx := by
  rw [← h, ctorIdx_opcodeOfBits, opcodeField_toNat]

section
variable {w : Word}

theorem decodeWord_of_br (hop : opcodeField w = 0b0000#4) :
    decodeWord w = .br (w.getLsbD 11) (w.getLsbD 10) (w.getLsbD 9) (offField9 w) := by
  rw [decodeWord, hop]; rfl

theorem decodeWord_of_addReg (hop : opcodeField w = 0b0001#4) (hmode : w.getLsbD 5 = false) :
    decodeWord w = .addReg (regField11 w) (regField8 w) (regField2 w) := by
  rw [decodeWord, hop, hmode]; rfl

theorem decodeWord_of_addImm (hop : opcodeField w = 0b0001#4) (hmode : w.getLsbD 5 = true) :
    decodeWord w = .addImm (regField11 w) (regField8 w) (immField5 w) := by
  rw [decodeWord, hop, hmode]; rfl

theorem decodeWord_of_ld (hop : opcodeField w = 0b0010#4) :
    decodeWord w = .ld (regField11 w) (offField9 w) := by
  rw [decodeWord, hop]; rfl

theorem decodeWord_of_st (hop : opcodeField w = 0b0011#4) :
    decodeWord w = .st (regField11 w) (offField9 w) := by
  rw [decodeWord, hop]; rfl

theorem decodeWord_of_jsr (hop : opcodeField w = 0b0100#4) (hmode : w.getLsbD 11 = true) :
    decodeWord w = .jsr (offField11 w) := by
  rw [decodeWord, hop, hmode]; rfl

theorem decodeWord_of_jsrr (hop : opcodeField w = 0b0100#4) (hmode : w.getLsbD 11 = false) :
    decodeWord w = .jsrr (regField8 w) := by
  rw [decodeWord, hop, hmode]; rfl

theorem decodeWord_of_andReg (hop : opcodeField w = 0b0101#4) (hmode : w.getLsbD 5 = false) :
    decodeWord w = .andReg (regField11 w) (regField8 w) (regField2 w) := by
  rw [decodeWord, hop, hmode]; rfl

theorem decodeWord_of_andImm (hop : opcodeField w = 0b0101#4) (hmode : w.getLsbD 5 = true) :
    decodeWord w = .andImm (regField11 w) (regField8 w) (immField5 w) := by
  rw [decodeWord, hop, hmode]; rfl

theorem decodeWord_of_ldr (hop : opcodeField w = 0b0110#4) :
    decodeWord w = .ldr (regField11 w) (regField8 w) (offField6 w) := by
  rw [decodeWord, hop]; rfl

theorem decodeWord_of_str (hop : opcodeField w = 0b0111#4) :
    decodeWord w = .str (regField11 w) (regField8 w) (offField6 w) := by
  rw [decodeWord, hop]; rfl

theorem decodeWord_of_rti (hop : opcodeField w = 0b1000#4) : decodeWord w = .rti := by
  rw [decodeWord, hop]; rfl

theorem decodeWord_of_not (hop : opcodeField w = 0b1001#4) :
    decodeWord w = .not (regField11 w) (regField8 w) := by
  rw [decodeWord, hop]; rfl

theorem decodeWord_of_ldi (hop : opcodeField w = 0b1010#4) :
    decodeWord w = .ldi (regField11 w) (offField9 w) := by
  rw [decodeWord, hop]; rfl

theorem decodeWord_of_sti (hop : opcodeField w = 0b1011#4) :
    decodeWord w = .sti (regField11 w) (offField9 w) := by
  rw [decodeWord, hop]; rfl

theorem decodeWord_of_jmp (hop : opcodeField w = 0b1100#4) :
    decodeWord w = .jmp (regField8 w) := by
  rw [decodeWord, hop]; rfl

theorem decodeWord_of_res (hop : opcodeField w = 0b1101#4) : decodeWord w = .res := by
  rw [decodeWord, hop]; rfl

theorem decodeWord_of_lea (hop : opcodeField w = 0b1110#4) :
    decodeWord w = .lea (regField11 w) (offField9 w) := by
  rw [decodeWord, hop]; rfl

theorem decodeWord_of_trap (hop : opcodeField w = 0b1111#4) :
    decodeWord w = decodeTrap (vectField8 w) := by
  rw [decodeWord, hop]; rfl

end

/-! The TRAP sub-dispatch: a vector with a routine, or an undefined one (R98, R200). -/

theorem mem_of_definedVector {v : Byte} (h : definedVector v = true) :
    v ∈ [0x20#8, 0x21#8, 0x22#8, 0x23#8, 0x24#8, 0x25#8] := by
  simp only [definedVector, Bool.and_eq_true, decide_eq_true_eq, BitVec.le_def] at h
  simp only [List.mem_cons, List.not_mem_nil, BitVec.toNat_eq, or_false]
  simp only [BitVec.toNat_ofNat] at h ⊢
  omega

theorem decodeTrap_of_undefined {v : Byte} (h : definedVector v = false) :
    decodeTrap v = .trapUndefined v := by
  have hne {u : Byte} (hu : definedVector u = true) : v ≠ u := by
    rintro rfl
    cases h.symm.trans hu
  rw [decodeTrap, if_neg (hne rfl), if_neg (hne rfl), if_neg (hne rfl), if_neg (hne rfl),
    if_neg (hne rfl), if_neg (hne rfl)]

/-- What holds of the six routines and of every undefined vector holds of the sub-dispatch. -/
theorem forall_decodeTrap {P : Byte → Instr → Prop}
    (routine : ∀ v ∈ [0x20#8, 0x21#8, 0x22#8, 0x23#8, 0x24#8, 0x25#8], P v (decodeTrap v))
    (undefined : ∀ v, definedVector v = false → P v (.trapUndefined v)) (v : Byte) :
    P v (decodeTrap v) := by
  cases h : definedVector v with
  | true => exact routine v (mem_of_definedVector h)
  | false =>
    rw [decodeTrap_of_undefined h]
    exact undefined v h

theorem encode_decodeTrap : ∀ v, encode (decodeTrap v) = trapWord v :=
  forall_decodeTrap (P := fun v i => encode i = trapWord v) (by decide) fun _ _ => rfl

theorem readMask_decodeTrap : ∀ v, readMask (decodeTrap v) = 0xF0FF#16 :=
  forall_decodeTrap (P := fun _ i => readMask i = 0xF0FF#16) (by decide) fun _ _ => rfl

theorem wellFormed_decodeTrap : ∀ v, (decodeTrap v).wellFormed = true :=
  forall_decodeTrap (P := fun _ i => i.wellFormed = true) (by decide) fun v h => by
    rw [Instr.wellFormed, h]
    rfl

end Sys2Proof
end

section
/-! The words of the formats (30_encoding.md R83 to R93): the fields each format places, and the
instruction its words decode to, whatever the ignored bits hold (R97). -/

namespace Sys2Proof

open BitVec (extractLsb'_eq_self extractLsb'_append_eq_right)

section
variable {n m lo len : Nat}

/-- A slice of the high part of a concatenation, found above the low part. -/
theorem slice_high {x : BitVec n} {z : BitVec len} (h : x.extractLsb' lo len = z) (y : BitVec m) :
    (x ++ y).extractLsb' (lo + m) len = z := by
  rw [BitVec.extractLsb'_append_eq_of_le (Nat.le_add_left m lo), Nat.add_sub_cancel, h]

/-- A bit of the high part of a concatenation, found above the low part. -/
theorem bit_high {x : BitVec n} {k : Nat} {b : Bool} (h : x.getLsbD k = b) (y : BitVec m) :
    (x ++ y).getLsbD (k + m) = b := by
  rw [BitVec.getLsbD_append, if_neg (Nat.not_lt.mpr (Nat.le_add_left m k)), Nat.add_sub_cancel, h]

theorem bit_low (x : BitVec n) {y : BitVec 1} {b : Bool} (h : y.getLsbD 0 = b) :
    (x ++ y).getLsbD 0 = b := by
  rw [BitVec.getLsbD_append, if_pos Nat.one_pos, h]

end

/-! A format's words decode by the equation of its opcode and mode bit. -/

section
variable {op : BitVec 4} {mode : BitVec 1} {b : Bool}

theorem decodeWord_bare {i : Instr} (hi : ∀ {w}, opcodeField w = op → decodeWord w = i)
    (x : BitVec 12) : decodeWord (op ++ x) = i :=
  hi (slice_high extractLsb'_eq_self x)

theorem decodeWord_pcRel {f : RegId → BitVec 9 → Instr}
    (hf : ∀ {w}, opcodeField w = op → decodeWord w = f (regField11 w) (offField9 w))
    (r : RegId) (off : BitVec 9) : decodeWord (op ++ r ++ off) = f r off := by
  have hr : regField11 (op ++ r ++ off) = r := slice_high extractLsb'_append_eq_right off
  have hoff : offField9 (op ++ r ++ off) = off := extractLsb'_append_eq_right
  rw [hf (slice_high (slice_high extractLsb'_eq_self r) off), hr, hoff]

theorem decodeWord_base {f : RegId → RegId → BitVec 6 → Instr}
    (hf : ∀ {w}, opcodeField w = op →
      decodeWord w = f (regField11 w) (regField8 w) (offField6 w))
    (r q : RegId) (off : BitVec 6) : decodeWord (op ++ r ++ q ++ off) = f r q off := by
  have hr : regField11 (op ++ r ++ q ++ off) = r :=
    slice_high (slice_high extractLsb'_append_eq_right q) off
  have hq : regField8 (op ++ r ++ q ++ off) = q := slice_high extractLsb'_append_eq_right off
  have hoff : offField6 (op ++ r ++ q ++ off) = off := extractLsb'_append_eq_right
  rw [hf (slice_high (slice_high (slice_high extractLsb'_eq_self r) q) off), hr, hq, hoff]

theorem decodeWord_operate {f : RegId → RegId → RegId → Instr}
    (hf : ∀ {w}, opcodeField w = op → w.getLsbD 5 = b →
      decodeWord w = f (regField11 w) (regField8 w) (regField2 w))
    (hmode : mode.getLsbD 0 = b) (r q t : RegId) (x : BitVec 2) :
    decodeWord (op ++ r ++ q ++ mode ++ x ++ t) = f r q t := by
  have hop : opcodeField (op ++ r ++ q ++ mode ++ x ++ t) = op :=
    slice_high (slice_high (slice_high (slice_high (slice_high extractLsb'_eq_self r) q) mode) x) t
  have hr : regField11 (op ++ r ++ q ++ mode ++ x ++ t) = r :=
    slice_high (slice_high (slice_high (slice_high extractLsb'_append_eq_right q) mode) x) t
  have hq : regField8 (op ++ r ++ q ++ mode ++ x ++ t) = q :=
    slice_high (slice_high (slice_high extractLsb'_append_eq_right mode) x) t
  have ht : regField2 (op ++ r ++ q ++ mode ++ x ++ t) = t := extractLsb'_append_eq_right
  rw [hf hop (bit_high (bit_high (bit_low _ hmode) x) t), hr, hq, ht]

theorem decodeWord_immediate {f : RegId → RegId → BitVec 5 → Instr}
    (hf : ∀ {w}, opcodeField w = op → w.getLsbD 5 = b →
      decodeWord w = f (regField11 w) (regField8 w) (immField5 w))
    (hmode : mode.getLsbD 0 = b) (r q : RegId) (imm : BitVec 5) :
    decodeWord (op ++ r ++ q ++ mode ++ imm) = f r q imm := by
  have hop : opcodeField (op ++ r ++ q ++ mode ++ imm) = op :=
    slice_high (slice_high (slice_high (slice_high extractLsb'_eq_self r) q) mode) imm
  have hr : regField11 (op ++ r ++ q ++ mode ++ imm) = r :=
    slice_high (slice_high (slice_high extractLsb'_append_eq_right q) mode) imm
  have hq : regField8 (op ++ r ++ q ++ mode ++ imm) = q :=
    slice_high (slice_high extractLsb'_append_eq_right mode) imm
  have himm : immField5 (op ++ r ++ q ++ mode ++ imm) = imm := extractLsb'_append_eq_right
  rw [hf hop (bit_high (bit_low _ hmode) imm), hr, hq, himm]

end

theorem decodeWord_br (n z p : Bool) (off : BitVec 9) :
    decodeWord (0b0000#4 ++ BitVec.ofBool n ++ BitVec.ofBool z ++ BitVec.ofBool p ++ off) =
      .br n z p off := by
  have bit (x : Bool) : (BitVec.ofBool x).getLsbD 0 = x := by cases x <;> rfl
  have hop := slice_high (slice_high (slice_high (slice_high (extractLsb'_eq_self (x := 0b0000#4))
    (BitVec.ofBool n)) (BitVec.ofBool z)) (BitVec.ofBool p)) off
  have hn := bit_high (bit_high (bit_high (bit_low 0b0000#4 (bit n)) (BitVec.ofBool z))
    (BitVec.ofBool p)) off
  have hz := bit_high (bit_high (bit_low (0b0000#4 ++ BitVec.ofBool n) (bit z))
    (BitVec.ofBool p)) off
  have hp := bit_high (bit_low (0b0000#4 ++ BitVec.ofBool n ++ BitVec.ofBool z) (bit p)) off
  rw [decodeWord_of_br hop, hn, hz, hp]
  exact congrArg (Instr.br n z p) extractLsb'_append_eq_right

theorem decodeWord_jsr (off : BitVec 11) :
    decodeWord (0b0100#4 ++ 0b1#1 ++ off) = .jsr off := by
  have hop := slice_high (slice_high (extractLsb'_eq_self (x := 0b0100#4)) 0b1#1) off
  rw [decodeWord_of_jsr hop (bit_high (bit_low 0b0100#4 rfl) off)]
  exact congrArg Instr.jsr extractLsb'_append_eq_right

theorem decodeWord_jsrr (x : BitVec 2) (r : RegId) (y : BitVec 6) :
    decodeWord (0b0100#4 ++ 0b0#1 ++ x ++ r ++ y) = .jsrr r := by
  have hop := slice_high (slice_high (slice_high (slice_high
    (extractLsb'_eq_self (x := 0b0100#4)) 0b0#1) x) r) y
  rw [decodeWord_of_jsrr hop (bit_high (bit_high (bit_high (bit_low 0b0100#4 rfl) x) r) y)]
  exact congrArg Instr.jsrr (slice_high extractLsb'_append_eq_right y)

theorem decodeWord_trap (x : BitVec 4) (v : Byte) :
    decodeWord (0b1111#4 ++ x ++ v) = decodeTrap v := by
  rw [decodeWord_of_trap (slice_high (slice_high extractLsb'_eq_self x) v)]
  exact congrArg decodeTrap extractLsb'_append_eq_right

/-- Settles O2: format by format, each opcode by its equation of the decoder. -/
theorem formatsDecodeWithAnyIgnoredBits : Obligations.FormatsDecodeWithAnyIgnoredBits := by
  unfold Obligations.FormatsDecodeWithAnyIgnoredBits
  refine ⟨decodeWord_br, fun r q t x => ⟨?_, ?_⟩, fun r q imm => ⟨?_, ?_⟩, ?_,
    fun r off => ⟨?_, ?_, ?_, ?_, ?_⟩, fun r q off => ⟨?_, ?_⟩, decodeWord_jsr, decodeWord_jsrr,
    ?_, decodeWord_trap, fun x => ⟨?_, ?_⟩⟩
  · exact decodeWord_operate decodeWord_of_addReg rfl r q t x
  · exact decodeWord_operate decodeWord_of_andReg rfl r q t x
  · exact decodeWord_immediate decodeWord_of_addImm rfl r q imm
  · exact decodeWord_immediate decodeWord_of_andImm rfl r q imm
  · exact decodeWord_base (f := fun r q _ => .not r q) decodeWord_of_not
  · exact decodeWord_pcRel decodeWord_of_ld r off
  · exact decodeWord_pcRel decodeWord_of_st r off
  · exact decodeWord_pcRel decodeWord_of_ldi r off
  · exact decodeWord_pcRel decodeWord_of_sti r off
  · exact decodeWord_pcRel decodeWord_of_lea r off
  · exact decodeWord_base decodeWord_of_ldr r q off
  · exact decodeWord_base decodeWord_of_str r q off
  · exact decodeWord_base (f := fun _ q _ => .jmp q) decodeWord_of_jmp
  · exact decodeWord_bare decodeWord_of_rti x
  · exact decodeWord_bare decodeWord_of_res x

end Sys2Proof
end

section
/-! Decoding what the encoder writes, and the table's words (30_encoding.md R82 to R93, R100). -/

namespace Sys2Proof

/-- The branch condition field, bit by bit after the opcode (R83). -/
theorem opcode_append_condField (n z p : Bool) : (0x0#4 ++ condField n z p : BitVec 7) =
    0b0000#4 ++ BitVec.ofBool n ++ BitVec.ofBool z ++ BitVec.ofBool p := by
  revert n z p
  decide

/-- The encoder's three zeros of the register form are the mode bit and two ignored bits (R84). -/
theorem append_mode_ignored (x : BitVec 10) :
    (x ++ 0b000#3 : BitVec 13) = x ++ 0b0#1 ++ 0b00#2 :=
  (BitVec.append_assoc (x₁ := x) (x₂ := 0b0#1) (x₃ := 0b00#2)).symm

/-- Settles O3: every word the encoder writes is a word of its format, ignored bits zero. -/
theorem decodeUndoesEncode : Obligations.DecodeUndoesEncode := by
  unfold Obligations.DecodeUndoesEncode
  intro i hi
  obtain ⟨hbr, hreg, himm, hnot, hpcRel, hbase, hjsr, hjsrr, hjmp, htrap, hbare⟩ :=
    formatsDecodeWithAnyIgnoredBits
  cases i with
  | br n z p off =>
    rw [encode, opcode_append_condField]
    exact hbr n z p off
  | addReg r q t =>
    rw [encode, append_mode_ignored]
    exact (hreg r q t 0b00#2).1
  | andReg r q t =>
    rw [encode, append_mode_ignored]
    exact (hreg r q t 0b00#2).2
  | addImm r q imm => exact (himm r q imm).1
  | andImm r q imm => exact (himm r q imm).2
  | not r q => exact hnot r q 0#6
  | ld r off => exact (hpcRel r off).1
  | st r off => exact (hpcRel r off).2.1
  | ldi r off => exact (hpcRel r off).2.2.1
  | sti r off => exact (hpcRel r off).2.2.2.1
  | lea r off => exact (hpcRel r off).2.2.2.2
  | ldr r q off => exact (hbase r q off).1
  | str r q off => exact (hbase r q off).2
  | jsr off => exact hjsr off
  | jsrr q => exact hjsrr 0#2 q 0#6
  | jmp q => exact hjmp 0#3 q 0#6
  | trapUndefined v =>
    have hv : definedVector v = false := by simpa [Instr.wellFormed] using hi
    exact (decodeWord_trap 0#4 v).trans (decodeTrap_of_undefined hv)
  | trapGetc | trapOut | trapPuts | trapIn | trapPutsp | trapHalt => exact decodeWord_trap 0#4 _
  | rti => exact (hbare 0#12).1
  | res => exact (hbare 0#12).2

/-- Settles O1: each word is of its format, with these values of the fields and the ignored bits. -/
theorem wordsWrittenFromTheFormatsDecode : Obligations.WordsWrittenFromTheFormatsDecode := by
  unfold Obligations.WordsWrittenFromTheFormatsDecode
  obtain ⟨hbr, hreg, himm, hnot, hpcRel, hbase, hjsr, hjsrr, hjmp, htrap, hbare⟩ :=
    formatsDecodeWithAnyIgnoredBits
  exact ⟨hbr false false true 0b111111101#9, (hreg 1#3 2#3 3#3 0b00#2).1, (himm 1#3 2#3 1#5).1,
    (himm 0#3 0#3 0#5).2, hnot 1#3 2#3 0b111111#6, (hbase 5#3 6#3 0b111111#6).1,
    (hbase 2#3 3#3 0b111111#6).2, (hpcRel 4#3 2#9).2.2.1, (hpcRel 3#3 0b111111110#9).2.2.2.2,
    hjsr 2#11, hjsrr 0b00#2 3#3 0#6, hjmp 0b000#3 7#3 0#6, (hbare 0x000#12).1, (hbare 0xABC#12).2,
    htrap 0x0#4 0x25#8, htrap 0x0#4 0x26#8⟩

end Sys2Proof
end

section
/-! Encoding what a word decodes to (30_encoding.md R97). A word is the concatenation of its
format's slices, and the mask of the bits read keeps each slice or clears it. -/

namespace Sys2Proof

open BitVec (extractLsb'_eq_self and_allOnes and_zero)

/-! A word as the slices of each format. -/

/-- A slice and the one below it are one slice. -/
theorem slice_append (w : Word) (lo : Nat) {len len' : Nat} :
    w.extractLsb' (lo + len') len ++ w.extractLsb' lo len' = w.extractLsb' lo (len + len') :=
  BitVec.extractLsb'_append_extractLsb'_eq_extractLsb' rfl

section
variable (w : Word)

theorem slices_bare : opcodeField w ++ w.extractLsb' 0 12 = w :=
  (slice_append w 0).trans extractLsb'_eq_self

theorem slices_jsr : opcodeField w ++ w.extractLsb' 11 1 ++ offField11 w = w := by
  have hhigh : opcodeField w ++ w.extractLsb' 11 1 = w.extractLsb' 11 5 := slice_append w 11
  rw [hhigh]
  exact (slice_append w 0).trans extractLsb'_eq_self

theorem slices_trap : opcodeField w ++ w.extractLsb' 8 4 ++ vectField8 w = w := by
  have hhigh : opcodeField w ++ w.extractLsb' 8 4 = w.extractLsb' 8 8 := slice_append w 8
  rw [hhigh]
  exact (slice_append w 0).trans extractLsb'_eq_self

theorem opcode_append_regField11 : opcodeField w ++ regField11 w = w.extractLsb' 9 7 :=
  slice_append w 9

theorem slices_pcRel : opcodeField w ++ regField11 w ++ offField9 w = w := by
  rw [opcode_append_regField11]
  exact (slice_append w 0).trans extractLsb'_eq_self

theorem opcode_append_registers :
    opcodeField w ++ regField11 w ++ regField8 w = w.extractLsb' 6 10 := by
  rw [opcode_append_regField11]
  exact slice_append w 6

theorem slices_base : opcodeField w ++ regField11 w ++ regField8 w ++ offField6 w = w := by
  rw [opcode_append_registers]
  exact (slice_append w 0).trans extractLsb'_eq_self

theorem slices_immediate :
    opcodeField w ++ regField11 w ++ regField8 w ++ w.extractLsb' 5 1 ++ immField5 w = w := by
  have hhigh : w.extractLsb' 6 10 ++ w.extractLsb' 5 1 = w.extractLsb' 5 11 := slice_append w 5
  rw [opcode_append_registers, hhigh]
  exact (slice_append w 0).trans extractLsb'_eq_self

theorem slices_operate :
    opcodeField w ++ regField11 w ++ regField8 w ++ w.extractLsb' 3 3 ++ regField2 w = w := by
  have hhigh : w.extractLsb' 6 10 ++ w.extractLsb' 3 3 = w.extractLsb' 3 13 := slice_append w 3
  rw [opcode_append_registers, hhigh]
  exact (slice_append w 0).trans extractLsb'_eq_self

end

/-! The mode bits and BR's condition bits as slices. -/

section
variable {w : Word}

theorem slice_one {k : Nat} {b : Bool} (h : w.getLsbD k = b) :
    w.extractLsb' k 1 = BitVec.ofBool b := by
  rw [← h]
  ext i hi
  obtain rfl : i = 0 := by omega
  simp

theorem slice_and_mode {lo : Nat} (h : w.getLsbD (lo + 2) = false) :
    w.extractLsb' lo 3 &&& 0b100#3 = 0b000#3 := by
  have hbit : (w.extractLsb' lo 3).getLsbD 2 = false := by simpa using h
  generalize w.extractLsb' lo 3 = x at hbit
  revert x
  decide

theorem condField_bits (c : BitVec 3) :
    condField (c.getLsbD 2) (c.getLsbD 1) (c.getLsbD 0) = c := by
  revert c
  decide

theorem condField_eq_regField11 (w : Word) :
    condField (w.getLsbD 11) (w.getLsbD 10) (w.getLsbD 9) = regField11 w := by
  simpa [regField11] using condField_bits (regField11 w)

end

/-! The slices under the mask of each format. -/

theorem and_of_slices {w v m c : Word} (hv : v = w) (h : v &&& m = c) : c = w &&& m :=
  hv ▸ h.symm

section
variable {w : Word} {op : BitVec 4} (hop : opcodeField w = op)
include hop

theorem and_bare : op ++ 0#12 = w &&& 0xF000#16 := by
  subst hop
  exact and_of_slices (slices_bare w) (and_append_of (and_allOnes (w := 4)) and_zero)

theorem and_trap : op ++ 0#4 ++ vectField8 w = w &&& 0xF0FF#16 := by
  subst hop
  exact and_of_slices (slices_trap w)
    (and_append_of (and_append_of (and_allOnes (w := 4)) and_zero) (and_allOnes (w := 8)))

theorem and_pcRel : op ++ regField11 w ++ offField9 w = w &&& 0xFFFF#16 := by
  subst hop
  exact and_of_slices (slices_pcRel w) (and_allOnes (w := 16))

theorem and_base : op ++ regField11 w ++ regField8 w ++ offField6 w = w &&& 0xFFFF#16 := by
  subst hop
  exact and_of_slices (slices_base w) (and_allOnes (w := 16))

/-- NOT: bits 5:0 are not read (R86). -/
theorem and_not : op ++ regField11 w ++ regField8 w ++ 0#6 = w &&& 0xFFC0#16 := by
  subst hop
  exact and_of_slices (slices_base w) (and_append_of (and_append_of (and_append_of
    (and_allOnes (w := 4)) (and_allOnes (w := 3))) (and_allOnes (w := 3))) and_zero)

/-- JMP: bits 11:9 and 5:0 are not read (R91). -/
theorem and_jmp : op ++ 0b000#3 ++ regField8 w ++ 0#6 = w &&& 0xF1C0#16 := by
  subst hop
  exact and_of_slices (slices_base w) (and_append_of (and_append_of (and_append_of
    (and_allOnes (w := 4)) and_zero) (and_allOnes (w := 3))) and_zero)

/-- JSRR: bits 10:9 and 5:0 are not read (R90). -/
theorem and_jsrr (hmode : w.getLsbD 11 = false) :
    op ++ 0b000#3 ++ regField8 w ++ 0#6 = w &&& 0xF9C0#16 := by
  subst hop
  exact and_of_slices (slices_base w) (and_append_of (and_append_of (and_append_of
    (and_allOnes (w := 4)) (slice_and_mode hmode)) (and_allOnes (w := 3))) and_zero)

theorem and_jsr (hmode : w.getLsbD 11 = true) :
    op ++ 0b1#1 ++ offField11 w = w &&& 0xFFFF#16 := by
  subst hop
  have hslices := slices_jsr w
  rw [slice_one hmode] at hslices
  exact and_of_slices hslices (and_allOnes (w := 16))

/-- The register form of ADD and AND: bits 4:3 are not read (R84). -/
theorem and_operate (hmode : w.getLsbD 5 = false) :
    op ++ regField11 w ++ regField8 w ++ 0b000#3 ++ regField2 w = w &&& 0xFFE7#16 := by
  subst hop
  exact and_of_slices (slices_operate w) (and_append_of (and_append_of (and_append_of
    (and_append_of (and_allOnes (w := 4)) (and_allOnes (w := 3))) (and_allOnes (w := 3)))
    (slice_and_mode hmode)) (and_allOnes (w := 3)))

theorem and_immediate (hmode : w.getLsbD 5 = true) :
    op ++ regField11 w ++ regField8 w ++ 0b1#1 ++ immField5 w = w &&& 0xFFFF#16 := by
  subst hop
  have hslices := slices_immediate w
  rw [slice_one hmode] at hslices
  exact and_of_slices hslices (and_allOnes (w := 16))

end

/-- Encoding is a left inverse of decoding up to the bits not read, opcode by opcode (R97). -/
theorem encode_decodeWord (w : Word) : encode (decodeWord w) = w &&& readMask (decodeWord w) := by
  cases ho : opcodeOfBits (opcodeField w) <;> have hop := opcodeField_of ho
  case br =>
    rw [decodeWord_of_br hop, encode, condField_eq_regField11]
    exact and_pcRel hop
  case add =>
    cases hmode : w.getLsbD 5 with
    | true => rw [decodeWord_of_addImm hop hmode]; exact and_immediate hop hmode
    | false => rw [decodeWord_of_addReg hop hmode]; exact and_operate hop hmode
  case and =>
    cases hmode : w.getLsbD 5 with
    | true => rw [decodeWord_of_andImm hop hmode]; exact and_immediate hop hmode
    | false => rw [decodeWord_of_andReg hop hmode]; exact and_operate hop hmode
  case jsr =>
    cases hmode : w.getLsbD 11 with
    | true => rw [decodeWord_of_jsr hop hmode]; exact and_jsr hop hmode
    | false => rw [decodeWord_of_jsrr hop hmode]; exact and_jsrr hop hmode
  case ld => rw [decodeWord_of_ld hop]; exact and_pcRel hop
  case st => rw [decodeWord_of_st hop]; exact and_pcRel hop
  case ldi => rw [decodeWord_of_ldi hop]; exact and_pcRel hop
  case sti => rw [decodeWord_of_sti hop]; exact and_pcRel hop
  case lea => rw [decodeWord_of_lea hop]; exact and_pcRel hop
  case ldr => rw [decodeWord_of_ldr hop]; exact and_base hop
  case str => rw [decodeWord_of_str hop]; exact and_base hop
  case not => rw [decodeWord_of_not hop]; exact and_not hop
  case jmp => rw [decodeWord_of_jmp hop]; exact and_jmp hop
  case rti => rw [decodeWord_of_rti hop]; exact and_bare hop
  case res => rw [decodeWord_of_res hop]; exact and_bare hop
  case trap =>
    rw [decodeWord_of_trap hop, encode_decodeTrap, readMask_decodeTrap]
    exact and_trap hop

/-- Settles O4: `encode_decodeWord`, which compares the slices of the word format by format. -/
theorem encodeKeepsTheBitsThatAreRead : Obligations.EncodeKeepsTheBitsThatAreRead := by
  unfold Obligations.EncodeKeepsTheBitsThatAreRead
  exact encode_decodeWord

end Sys2Proof
end

section
/-! The opcode table (30_encoding.md R81, R98, R100): every word is of the row of what it decodes to,
by the word the encoder writes for it, and no two rows share a word. -/

namespace Sys2Proof

theorem wellFormed_decodeWord (w : Word) : (decodeWord w).wellFormed = true := by
  unfold decodeWord
  cases opcodeOfBits (opcodeField w) with
  | trap => exact wellFormed_decodeTrap _
  | add | and | jsr => dsimp only; split <;> rfl
  | _ => rfl

/-- The word of a well-formed instruction is of the instruction's row. -/
theorem rowCovers_encode : ∀ i : Instr, Laws.EncodeRow.Statement i
  | .br n z p off => Laws.EncodeRow.br n z p off
  | .addReg dr sr1 sr2 => Laws.EncodeRow.addReg dr sr1 sr2
  | .addImm dr sr1 imm => Laws.EncodeRow.addImm dr sr1 imm
  | .ld dr off => Laws.EncodeRow.ld dr off
  | .st sr off => Laws.EncodeRow.st sr off
  | .jsr off => Laws.EncodeRow.jsr off
  | .jsrr baseR => Laws.EncodeRow.jsrr baseR
  | .andReg dr sr1 sr2 => Laws.EncodeRow.andReg dr sr1 sr2
  | .andImm dr sr1 imm => Laws.EncodeRow.andImm dr sr1 imm
  | .ldr dr baseR off => Laws.EncodeRow.ldr dr baseR off
  | .str sr baseR off => Laws.EncodeRow.str sr baseR off
  | .rti => Laws.EncodeRow.rti
  | .not dr sr => Laws.EncodeRow.not dr sr
  | .ldi dr off => Laws.EncodeRow.ldi dr off
  | .sti sr off => Laws.EncodeRow.sti sr off
  | .jmp baseR => Laws.EncodeRow.jmp baseR
  | .res => Laws.EncodeRow.res
  | .lea dr off => Laws.EncodeRow.lea dr off
  | .trapGetc => Laws.EncodeRow.trapGetc
  | .trapOut => Laws.EncodeRow.trapOut
  | .trapPuts => Laws.EncodeRow.trapPuts
  | .trapIn => Laws.EncodeRow.trapIn
  | .trapPutsp => Laws.EncodeRow.trapPutsp
  | .trapHalt => Laws.EncodeRow.trapHalt
  | .trapUndefined v => Laws.EncodeRow.trapUndefined v

/-- A word is of a row when its bits match; in the last row its vector must have no routine. -/
theorem rowCovers_iff {k : Nat} {w : Word} : rowCovers k w = true ↔
    ∃ r, opcodeTable[k]? = some r ∧ w &&& r.mask = r.pattern ∧
      (k = 24 → definedVector (vectField8 w) = false) := by
  unfold rowCovers
  cases opcodeTable[k]? with
  | none => simp
  | some r => simp [Decidable.or_iff_not_imp_left]

theorem vectField8_and {m : Word} (hm : vectField8 m = 0xFF#8) (w : Word) :
    vectField8 (w &&& m) = vectField8 w := by
  unfold vectField8 at *
  rw [BitVec.extractLsb'_and, hm]
  exact BitVec.and_allOnes

/-- A mask that keeps what a row looks at does not change whether the word is of the row. -/
theorem rowCovers_and {k : Nat} {m : Word} {r : OpcodeRow} (hr : opcodeTable[k]? = some r)
    (hm : m &&& r.mask = r.mask) (hv : (k != 24) = true ∨ vectField8 m = 0xFF#8) (w : Word) :
    rowCovers k (w &&& m) = rowCovers k w := by
  obtain hv | hv := hv
  · simp only [rowCovers, hr, BitVec.and_assoc, hm, hv]
    simp
  · simp only [rowCovers, hr, BitVec.and_assoc, hm, vectField8_and hv]

/-- An instruction reads every bit that its row looks at. -/
theorem rowCovers_and_readMask (i : Instr) (w : Word) :
    rowCovers (tableIndex i) (w &&& readMask i) = rowCovers (tableIndex i) w := by
  cases i with
  | trapUndefined =>
    exact rowCovers_and rfl (by rw [readMask]; rfl) (.inr (by rw [readMask]; rfl)) w
  | _ => exact rowCovers_and rfl (by rw [readMask]; rfl) (.inl rfl) w

theorem rowCovers_decodeWord (w : Word) : rowCovers (tableIndex (decodeWord w)) w = true := by
  rw [← rowCovers_and_readMask, ← encode_decodeWord]
  exact rowCovers_encode _ (wellFormed_decodeWord w)

/-- Two rows whose masks and patterns leave room for a common word are a routine's and that of the
undefined vectors. -/
theorem rows_disjoint : ∀ k : Fin opcodeTable.length, ∀ j : Fin opcodeTable.length, j < k →
    opcodeTable[j].pattern &&& opcodeTable[k].mask =
      opcodeTable[k].pattern &&& opcodeTable[j].mask →
    k.val = 24 ∧ vectField8 opcodeTable[j].mask = 0xFF#8 ∧
      definedVector (vectField8 opcodeTable[j].pattern) = true := by
  decide

theorem not_rowCovers_of_lt {j k : Nat} {w : Word} (hlt : j < k) (hj : rowCovers j w = true) :
    rowCovers k w = false := by
  by_contra hk
  obtain ⟨r, hr, hjw, -⟩ := rowCovers_iff.mp hj
  obtain ⟨r', hr', hkw, hundef⟩ := rowCovers_iff.mp (Bool.eq_true_of_not_eq_false hk)
  obtain ⟨hj', rfl⟩ := List.getElem?_eq_some_iff.mp hr
  obtain ⟨hk', rfl⟩ := List.getElem?_eq_some_iff.mp hr'
  have hmeet : opcodeTable[j].pattern &&& opcodeTable[k].mask =
      opcodeTable[k].pattern &&& opcodeTable[j].mask := by
    rw [← hjw, ← hkw, BitVec.and_assoc, BitVec.and_assoc, BitVec.and_comm opcodeTable[j].mask]
  obtain ⟨h24, hvect, hdef⟩ := rows_disjoint ⟨k, hk'⟩ ⟨j, hj'⟩ hlt hmeet
  have hw : vectField8 opcodeTable[j].pattern = vectField8 w := by
    rw [← hjw]
    exact vectField8_and hvect w
  cases (hundef h24).symm.trans (hw ▸ hdef)

theorem row_unique {j k : Nat} {w : Word} (hj : rowCovers j w = true) (hk : rowCovers k w = true) :
    j = k := by
  obtain hlt | heq | hgt := Nat.lt_trichotomy j k
  · cases (not_rowCovers_of_lt hlt hj).symm.trans hk
  · exact heq
  · cases (not_rowCovers_of_lt hgt hk).symm.trans hj

/-- Settles O6: the row of what the word decodes to covers it, and no other row does. -/
theorem everyWordIsOfExactlyOneRow : Obligations.EveryWordIsOfExactlyOneRow := by
  unfold Obligations.EveryWordIsOfExactlyOneRow
  intro w
  refine ⟨wellFormed_decodeWord w, fun k => ⟨fun hk => row_unique hk (rowCovers_decodeWord w), ?_⟩⟩
  rintro rfl
  exact rowCovers_decodeWord w

/-- The bits that the instructions of each row read, in the table's order (R97). -/
def rowReadMasks : List Word :=
  [0xFFFF, 0xFFE7, 0xFFFF, 0xFFFF, 0xFFFF, 0xFFFF, 0xF9C0, 0xFFE7, 0xFFFF, 0xFFFF, 0xFFFF, 0xF000,
    0xFFC0, 0xFFFF, 0xFFFF, 0xF1C0, 0xF000, 0xFFFF, 0xF0FF, 0xF0FF, 0xF0FF, 0xF0FF, 0xF0FF, 0xF0FF,
    0xF0FF]

theorem rowReadMasks_tableIndex (i : Instr) : rowReadMasks[tableIndex i]? = some (readMask i) := by
  cases i <;> rfl

theorem readMask_eq_of_tableIndex_eq {i j : Instr} (h : tableIndex i = tableIndex j) :
    readMask i = readMask j := by
  have hi := rowReadMasks_tableIndex i
  rw [h, rowReadMasks_tableIndex j] at hi
  exact (Option.some.inj hi).symm

/-- Words that agree on the bits the one's instruction reads are of the same row. -/
theorem tableIndex_decodeWord_of_and_eq {v w : Word}
    (h : v &&& readMask (decodeWord w) = w &&& readMask (decodeWord w)) :
    tableIndex (decodeWord v) = tableIndex (decodeWord w) := by
  apply row_unique (rowCovers_decodeWord v)
  rw [← rowCovers_and_readMask, h, rowCovers_and_readMask]
  exact rowCovers_decodeWord w

/-- Settles O5: the two words are of one row, so their instructions read the same bits and encode to
the same word. -/
theorem unreadBitsAreIgnored : Obligations.UnreadBitsAreIgnored := by
  unfold Obligations.UnreadBitsAreIgnored
  intro v w h
  have hmask := readMask_eq_of_tableIndex_eq (tableIndex_decodeWord_of_and_eq h)
  have hencode : encode (decodeWord v) = encode (decodeWord w) := by
    rw [encode_decodeWord, encode_decodeWord, hmask, h]
  calc decodeWord v
    _ = decodeWord (encode (decodeWord v)) := (decodeUndoesEncode _ (wellFormed_decodeWord v)).symm
    _ = decodeWord (encode (decodeWord w)) := by rw [hencode]
    _ = decodeWord w := decodeUndoesEncode _ (wellFormed_decodeWord w)

end Sys2Proof
end

section
/-! The fatal decode errors (30_encoding.md R98; 60_exceptions.md R240, R241): which words decode to
an instruction that raises one, and what the step of such a word leaves. -/

namespace Sys2Proof.Machine

theorem faultOf_decodeTrap : ∀ v : Byte,
    (faultOf (decodeTrap v)).isSome = true ↔ ¬ (0x20 ≤ v.toNat ∧ v.toNat ≤ 0x25) :=
  forall_decodeTrap
    (P := fun v i => (faultOf i).isSome = true ↔ ¬ (0x20 ≤ v.toNat ∧ v.toNat ≤ 0x25)) (by decide)
    fun v h => by
      have hv : ¬ (0x20 ≤ v.toNat ∧ v.toNat ≤ 0x25) := by
        simpa [definedVector, BitVec.le_def] using h
      exact iff_of_true rfl hv

/-- The words R98 lists, by their value, are those that decode to an instruction with a fault. -/
theorem faultOf_decodeWord_iff (w : Word) : (faultOf (decodeWord w)).isSome = true ↔
    (w.toNat / 4096 = 8 ∨ w.toNat / 4096 = 13 ∨
      (w.toNat / 4096 = 15 ∧ ¬ (0x20 ≤ w.toNat % 256 ∧ w.toNat % 256 ≤ 0x25))) := by
  have unlisted {n : Nat} {p : Prop} (h : n ≠ 8 ∧ n ≠ 13 ∧ n ≠ 15) :
      ¬ (n = 8 ∨ n = 13 ∨ (n = 15 ∧ p)) := by
    obtain ⟨h8, h13, h15⟩ := h
    simp [h8, h13, h15]
  cases ho : opcodeOfBits (opcodeField w) <;> rw [opcode_number_of ho]
  case rti =>
    rw [decodeWord_of_rti (opcodeField_of ho)]
    exact iff_of_true rfl (.inl rfl)
  case res =>
    rw [decodeWord_of_res (opcodeField_of ho)]
    exact iff_of_true rfl (.inr (.inl rfl))
  case trap =>
    rw [decodeWord_of_trap (opcodeField_of ho), faultOf_decodeTrap, vectField8_toNat]
    rw [or_iff_right (by decide), or_iff_right (by decide),
      and_iff_right (show Opcode.trap.ctorIdx = 15 from rfl)]
  case add | and | jsr =>
    apply iff_of_false _ (unlisted (by decide))
    rw [decodeWord, ho]
    dsimp only
    split <;> exact Bool.false_ne_true
  all_goals
    apply iff_of_false _ (unlisted (by decide))
    rw [decodeWord, ho]
    exact Bool.false_ne_true

/-- An instruction with a fault ends in raising it, over the state it ran from or TRAP's link. -/
theorem exec_of_faultOf {i : Instr} {c : FaultCause} (h : faultOf i = some c) (s : State) :
    ∃ s' : State, exec i s = .next (s'.raiseFault c) ∧ s'.ir = s.ir ∧ s'.pc = s.pc := by
  cases i with
  | rti | res => cases h; exact ⟨s, rfl, rfl, rfl⟩
  | trapUndefined v => cases h; exact ⟨s.link, rfl, rfl, rfl⟩
  | _ => cases h

/-- Every other instruction leaves the run state, but for HALT (R33, R206). -/
theorem exec_run_of_no_fault {i : Instr} {s t : State} (h : faultOf i = none)
    (he : exec i s = .next t) : t.run = s.run ∨ t.run = .halted := by
  cases i with
  | trapHalt => cases he; exact .inr rfl
  | trapPuts | trapPutsp =>
    obtain ⟨bs, rfl⟩ := State.writeString_next he
    exact .inl rfl
  | br n z p off => cases he; left; split <;> rfl
  | trapGetc | trapIn | ld | ldr | sti => cases he; left; simp [State.loadInto]
  | ldi => obtain rfl := Host.Outcome.next.inj he; left; simp [State.loadInto]
  | addReg | addImm | andReg | andImm | not | lea | jmp | jsr | jsrr | st | str | trapOut =>
    cases he; exact .inl rfl
  | rti | res | trapUndefined => cases h

theorem State.memRead_tickAbort_fst (s : State) (a : Word) :
    (s.tickAbort.memRead a).1 = (s.memRead a).1 := by
  simp [State.memRead]

/-- Settles O38: the fetch brings the word, and its instruction raises its fault or has none. -/
theorem illegalWordsAreExactlyTheFatalOnes : Obligations.IllegalWordsAreExactlyTheFatalOnes := by
  unfold Obligations.IllegalWordsAreExactlyTheFatalOnes
  intro s w hready hw
  have hir : s.tickAbort.fetch.ir = w := (s.memRead_tickAbort_fst s.pc).trans hw
  have hstep := step_of_ready hready
  rw [← faultOf_decodeWord_iff, hstep, hir]
  have hrun : s.tickAbort.fetch.run = .running := by simpa using hready.1
  cases hf : faultOf (decodeWord w) with
  | none =>
    have hnot {t : State} {r : FaultRecord}
        (he : exec (decodeWord w) s.tickAbort.fetch = .next t) : t.run ≠ .faulted r := by
      obtain h | h := exec_run_of_no_fault hf he
      · rw [h, hrun]
        nofun
      · rw [h]
        nofun
    exact ⟨iff_of_false (fun ⟨t, r, he, hr⟩ => hnot he hr) Bool.false_ne_true,
      fun t r he hr => absurd hr (hnot he)⟩
  | some c =>
    obtain ⟨s', he, hir', hpc'⟩ := exec_of_faultOf hf s.tickAbort.fetch
    have hpc : s'.pc = s.pc + 1#16 := hpc'
    rw [he]
    refine ⟨iff_of_true ⟨_, _, rfl, rfl⟩ rfl, ?_⟩
    rintro t r ⟨⟩ ⟨⟩
    exact ⟨rfl, hir'.trans hir, by simp [hpc], hpc, rfl⟩

end Sys2Proof.Machine
end

section
/-! Control transfer (40_control.md R120 to R125): the branch test, the links of JSR, JSRR and TRAP, and
the return through R7. -/

namespace Sys2Proof.Machine

/-! BR. -/

theorem branchTaken_iff (m c : BitVec 3) : branchTaken m c = true ↔ m &&& c ≠ 0b000#3 :=
  bne_iff_ne

/-- BR writes PC alone, taken or not (R120). -/
theorem exec_br (n z p : Bool) (off : BitVec 9) (s : State) :
    exec (.br n z p off) s = .next { s with
      pc := if branchTaken (condField n z p) s.cond then s.pc + sext9 off else s.pc } := by
  change Host.Outcome.next _ = _
  split <;> rfl

/-- Settles O29: BR writes PC alone, after the test of R120. -/
theorem branchAddsTheOffsetWhenTaken : Obligations.BranchAddsTheOffsetWhenTaken := by
  unfold Obligations.BranchAddsTheOffsetWhenTaken
  intro n z p off s
  simp only [exec_br, branchTaken_iff]
  rfl

theorem condLegal_iff (c : BitVec 3) :
    condLegal c = true ↔ c = 0b100#3 ∨ c = 0b010#3 ∨ c = 0b001#3 := by
  simp [condLegal, condNeg, condZero, condPos, or_assoc]

/-- One flag at a time, so the test picks that flag's bit of the field (R26, R120). -/
theorem branchTaken_iff_of_legal {c : BitVec 3} (h : condLegal c = true) (n z p : Bool) :
    branchTaken (condField n z p) c = true ↔
      (n = true ∧ c = 0b100#3) ∨ (z = true ∧ c = 0b010#3) ∨ (p = true ∧ c = 0b001#3) := by
  obtain rfl | rfl | rfl := (condLegal_iff c).mp h <;> revert n z p <;> decide

theorem exec_br_of_legal {s : State} (h : condLegal s.cond = true) (n z p : Bool)
    (off : BitVec 9) : exec (.br n z p off) s = .next { s with
      pc := if (n = true ∧ s.cond = 0b100#3) ∨ (z = true ∧ s.cond = 0b010#3) ∨
              (p = true ∧ s.cond = 0b001#3)
            then s.pc + sext9 off else s.pc } := by
  simp only [exec_br, branchTaken_iff_of_legal h]

/-- Settles O30: with no bit set no flag is tested for, with all three one of the tests holds. -/
theorem branchTestsTheCurrentFlag : Obligations.BranchTestsTheCurrentFlag := by
  unfold Obligations.BranchTestsTheCurrentFlag
  intro n z p off s h
  have hflag := (condLegal_iff s.cond).mp h
  refine ⟨exec_br_of_legal h n z p off, ?_, ?_⟩
  · rw [exec_br_of_legal h]
    simp
  · rw [exec_br_of_legal h]
    simp [hflag]

/-! JMP, JSR and JSRR. -/

/-- Settles O31: JMP is `pc <- x[BaseR]` and no more. -/
theorem jmpSetsPcFromTheRegister : Obligations.JmpSetsPcFromTheRegister := by
  unfold Obligations.JmpSetsPcFromTheRegister
  exact fun _ _ => rfl

/-- A link and a jump write R7 and PC alone (R123, R124). -/
theorem State.setPc_link_frame (s : State) (a : Word) :
    regsKept [7#3] s (s.link.setPc a) ∧ (s.link.setPc a).cond = s.cond ∧
      memKept [] s (s.link.setPc a) ∧ consoleKept s (s.link.setPc a) ∧
      runKept s (s.link.setPc a) ∧ fixedKept s (s.link.setPc a) := by
  refine ⟨fun r hr => ?_, rfl, fun _ _ => rfl, ⟨rfl, rfl⟩, ⟨rfl, rfl, rfl⟩, rfl, rfl, rfl⟩
  exact State.readReg_writeReg_other (List.ne_of_not_mem_cons hr) s s.pc

theorem State.readReg_link_reg7 (s : State) : s.link.readReg reg7 = s.pc :=
  State.readReg_writeReg_same s reg7 s.pc

/-- Settles O32: the link, then the jump to `pc + sext_11(PCoffset11)`. -/
theorem jsrLinksAndJumps : Obligations.JsrLinksAndJumps := by
  unfold Obligations.JsrLinksAndJumps
  exact fun off s => ⟨s.link.setPc (s.pcRel11 off), rfl, s.readReg_link_reg7,
    BitVec.toNat_add s.pc (sext11 off), s.setPc_link_frame _⟩

/-- Settles O33: BaseR is read from the linked state, where R7 is the return address. -/
theorem jsrrReadsBaseAfterTheLink : Obligations.JsrrReadsBaseAfterTheLink := by
  unfold Obligations.JsrrReadsBaseAfterTheLink
  exact fun baseR s => ⟨s.link.setPc (s.link.readReg baseR), rfl, s.readReg_link_reg7,
    s.readReg_link baseR, s.setPc_link_frame _⟩

/-! The return. -/

/-- A blocking read writes R0 at most, whether it ends or waits (R201, R204). -/
theorem State.readReg_blockingRead_other {q : RegId} (hq : q ≠ reg0) (s : State)
    (r : ReadRoutine) : (s.blockingRead r).readReg q = s.readReg q := by
  obtain ⟨b, rest, -, hb⟩ | ⟨-, hb⟩ := s.blockingRead_cases r
  · rw [hb, State.readReg_finishRead, if_neg hq]
    rfl
  · rw [hb]
    rfl

/-- Each linking instruction writes the link first and R7 no more (R123, R124, R248). -/
theorem exec_link_reg7 {i : Instr} {s t : State}
    (hi : (∃ off, i = .jsr off) ∨ (∃ r, i = .jsrr r) ∨ isTrap i = true)
    (he : exec i s = .next t) : t.readReg reg7 = s.pc := by
  have hread (s' : State) (r : ReadRoutine) : (s'.blockingRead r).readReg reg7 = s'.readReg reg7 :=
    s'.readReg_blockingRead_other (by decide) r
  cases i with
  | jsr | jsrr | trapOut | trapHalt | trapUndefined => cases he; exact s.readReg_link_reg7
  | trapPuts | trapPutsp =>
    obtain ⟨bs, rfl⟩ := State.writeString_next he
    exact s.readReg_link_reg7
  | trapGetc | trapIn => cases he; exact (hread _ _).trans s.readReg_link_reg7
  | _ => simp [isTrap] at hi

/-- Settles O34: R7 holds the link after the instruction, and JMP R7 jumps to what R7 holds. -/
theorem retReturnsToTheLinkAddress : Obligations.RetReturnsToTheLinkAddress := by
  unfold Obligations.RetReturnsToTheLinkAddress
  intro i s t u hi he hu
  rw [jmpSetsPcFromTheRegister, hu, ← exec_link_reg7 hi he]
  rfl

end Sys2Proof.Machine
end

section
/-! The operate instructions (41_operate.md R140 to R145): ADD, AND and NOT end in `x[DR] <- v;
setcc(v)` over the state they ran from, and subtraction and OR are made of them. -/

namespace Sys2Proof.Machine

theorem State.readReg_writeResult_same (s : State) (dr : RegId) (v : Word) :
    (s.writeResult dr v).readReg dr = v :=
  s.readReg_writeReg_same dr v

/-- A result writes DR and COND alone (R28). -/
theorem State.writeResult_frame (s : State) (dr : RegId) (v : Word) :
    (s.writeResult dr v).cond = condOf ((s.writeResult dr v).readReg dr) ∧
      regsKept [dr] s (s.writeResult dr v) ∧ memKept [] s (s.writeResult dr v) ∧
      (s.writeResult dr v).pc = s.pc ∧ consoleKept s (s.writeResult dr v) ∧
      runKept s (s.writeResult dr v) ∧ fixedKept s (s.writeResult dr v) := by
  refine ⟨s.writeResult_cond_eq dr v, fun r hr => ?_, fun _ _ => rfl, rfl, ⟨rfl, rfl⟩,
    ⟨rfl, rfl, rfl⟩, rfl, rfl, rfl⟩
  exact State.readReg_writeReg_other (List.ne_of_not_mem_cons hr) s v

/-! The five instructions, each by its value. -/

/-- Settles O11: the value is the sum of two registers of the state before the write. -/
theorem addRegisterAddsModulo65536 : Obligations.AddRegisterAddsModulo65536 := by
  unfold Obligations.AddRegisterAddsModulo65536
  intro dr sr1 sr2 s
  refine ⟨s.writeResult dr (s.readReg sr1 + s.readReg sr2), rfl, ?_, s.writeResult_frame dr _⟩
  rw [State.readReg_writeResult_same, BitVec.toNat_add]

/-- Settles O12: the value is the sum of a register and the extended immediate. -/
theorem addImmediateAddsModulo65536 : Obligations.AddImmediateAddsModulo65536 := by
  unfold Obligations.AddImmediateAddsModulo65536
  intro dr sr1 imm s
  refine ⟨s.writeResult dr (s.readReg sr1 + sext5 imm), rfl, ?_, s.writeResult_frame dr _⟩
  rw [State.readReg_writeResult_same, BitVec.toNat_add]

/-- Settles O13: the value is the bitwise and of two registers of the state before the write. -/
theorem andRegisterIsBitwise : Obligations.AndRegisterIsBitwise := by
  unfold Obligations.AndRegisterIsBitwise
  intro dr sr1 sr2 s
  refine ⟨s.writeResult dr (s.readReg sr1 &&& s.readReg sr2), rfl, fun k => ?_,
    s.writeResult_frame dr _⟩
  rw [State.readReg_writeResult_same, BitVec.getLsbD_and]

/-- Settles O14: the value is the bitwise and of a register and the extended immediate. -/
theorem andImmediateIsBitwise : Obligations.AndImmediateIsBitwise := by
  unfold Obligations.AndImmediateIsBitwise
  intro dr sr1 imm s
  refine ⟨s.writeResult dr (s.readReg sr1 &&& sext5 imm), rfl, fun k => ?_,
    s.writeResult_frame dr _⟩
  rw [State.readReg_writeResult_same, BitVec.getLsbD_and]

/-- Settles O15: the value is the complement, which is `0xFFFF` less the register. -/
theorem notComplements : Obligations.NotComplements := by
  unfold Obligations.NotComplements
  intro dr sr s
  refine ⟨s.writeResult dr (~~~ s.readReg sr), rfl, ?_, s.writeResult_frame dr _⟩
  rw [State.readReg_writeResult_same, BitVec.toNat_not]

/-! Subtraction and OR in software (R145). -/

theorem add_not_add_one (a b : Word) : a + (~~~ b + sext5 1#5) = a - b := by
  have hone : sext5 1#5 = 1#16 := by decide
  rw [hone, ← BitVec.neg_eq_not_add, ← BitVec.sub_eq_add_neg]

theorem not_not_and_not (a b : Word) : ~~~ (~~~ a &&& ~~~ b) = a ||| b := by
  rw [← BitVec.not_or, BitVec.not_not]

/-- Settles O17: R2 (and R3) take the intermediate values, so R0 and R1 are still read as at first. -/
theorem softwareSubtractionAndOr : Obligations.SoftwareSubtractionAndOr := by
  unfold Obligations.SoftwareSubtractionAndOr
  intro s
  constructor
  · refine ⟨_, _, _, rfl, rfl, rfl, ?_⟩
    simp [State.readReg_writeResult, add_not_add_one]
  · refine ⟨_, _, _, _, rfl, rfl, rfl, rfl, ?_⟩
    simp [State.readReg_writeResult, not_not_and_not]

end Sys2Proof.Machine
end

section
/-! Loads, stores and LEA (42_load_store.md R160 to R167). A load is a MemRead and a result, a store a
MemWrite; LDI and STI put the MemRead of their pointer first. So each law below speaks of a state `t`
that the MemReads so far have left of the state `s` the instruction ran from. -/

namespace Sys2Proof.Machine

/-- Everything but the memory and the console's input is unchanged. -/
def coreKept (s t : State) : Prop :=
  regsKept [] s t ∧ t.cond = s.cond ∧ t.pc = s.pc ∧ t.output = s.output ∧ runKept s t ∧ fixedKept s t

theorem memKept.refl (s : State) : memKept [] s s := fun _ _ => rfl

theorem coreKept.refl (s : State) : coreKept s s :=
  ⟨fun _ _ => rfl, rfl, rfl, rfl, ⟨rfl, rfl, rfl⟩, rfl, rfl, rfl⟩

section
variable {as : List Word} {s t : State}

theorem memKept.readEffect (h : memKept as s t) (a : Word) :
    memKept (as ++ readTouches a) s (t.readEffect a) := by
  intro c hc
  obtain ⟨has, ha⟩ := not_or.mp (mt List.mem_append.mpr hc)
  exact (t.readEffect_memKept a c ha).trans (h c has)

theorem memKept.memWrite (h : memKept as s t) (a v : Word) :
    memKept (a :: as) s (t.memWrite a v) := by
  intro c hc
  obtain ⟨hne, has⟩ := List.ne_and_not_mem_of_not_mem_cons hc
  exact (State.rawRead_memWrite_other hne t v).trans (h c has)

/-- A MemRead, polling or not, changes memory and input alone (R53, R54). -/
theorem coreKept.readEffect (h : coreKept s t) (a : Word) : coreKept s (t.readEffect a) := by
  simpa [coreKept, regsKept, runKept, fixedKept] using h

/-- A store changes memory alone, at every address (R56). -/
theorem coreKept.memWrite (h : coreKept s t) (a v : Word) : coreKept s (t.memWrite a v) := h

/-- The end of every load: DR and COND take the word of the last MemRead, and memory and input are as
the MemReads leave them (R160 to R162). -/
theorem State.loadInto_of_kept (hmem : memKept as s t) (hcore : coreKept s t) (dr : RegId)
    (a : Word) :
    (t.loadInto dr a).readReg dr = (t.memRead a).1 ∧
      (t.loadInto dr a).cond = condOf ((t.loadInto dr a).readReg dr) ∧
      (∀ c, (t.loadInto dr a).rawRead c = (t.memRead a).2.rawRead c) ∧
      (t.loadInto dr a).input = (t.memRead a).2.input ∧
      memKept (as ++ readTouches a) s (t.loadInto dr a) ∧ regsKept [dr] s (t.loadInto dr a) ∧
      (t.loadInto dr a).pc = s.pc ∧ (t.loadInto dr a).output = s.output ∧
      runKept s (t.loadInto dr a) ∧ fixedKept s (t.loadInto dr a) := by
  obtain ⟨hregs, -, hrest⟩ := hcore.readEffect a
  refine ⟨State.readReg_writeResult_same _ dr _, State.writeResult_cond_eq _ dr _, fun _ => rfl, rfl,
    hmem.readEffect a, fun r hr => ?_, hrest⟩
  exact (State.readReg_writeReg_other (List.ne_of_not_mem_cons hr) _ _).trans
    (hregs r List.not_mem_nil)

end

/-- A store writes its cell and nothing else (R56, R164, R166). -/
theorem State.memWrite_frame (s : State) (a v : Word) :
    (s.memWrite a v).rawRead a = v ∧ memKept [a] s (s.memWrite a v) ∧
      (s.memWrite a v).input = s.input ∧ coreKept s (s.memWrite a v) :=
  ⟨s.rawRead_memWrite_same a v, (memKept.refl s).memWrite a v, rfl, (coreKept.refl s).memWrite a v⟩

/-! LEA and the loads. -/

/-- Settles O16: LEA is a result over the state it ran from, so no MemRead polls. -/
theorem leaWritesTheAddress : Obligations.LeaWritesTheAddress := by
  unfold Obligations.LeaWritesTheAddress
  intro dr off s
  refine ⟨s.writeResult dr (s.pc + sext9 off), rfl, ?_, s.writeResult_frame dr _⟩
  rw [State.readReg_writeResult_same, BitVec.toNat_add]

/-- Settles O18: the load's one MemRead is at the PC-relative address. -/
theorem ldLoadsPcRelative : Obligations.LdLoadsPcRelative := by
  unfold Obligations.LdLoadsPcRelative
  exact fun dr off s => ⟨s.loadInto dr (s.pc + sext9 off), rfl,
    State.loadInto_of_kept (memKept.refl s) (coreKept.refl s) dr _⟩

/-- Settles O19: the address takes BaseR from the state before the load, DR or not. -/
theorem ldrLoadsBasePlusOffset : Obligations.LdrLoadsBasePlusOffset := by
  unfold Obligations.LdrLoadsBasePlusOffset
  exact fun dr baseR off s => ⟨s.loadInto dr (s.readReg baseR + sext6 off), rfl,
    State.loadInto_of_kept (memKept.refl s) (coreKept.refl s) dr _⟩

/-- Settles O20: the load runs on the state that the MemRead of the pointer left. -/
theorem ldiLoadsThroughThePointer : Obligations.LdiLoadsThroughThePointer := by
  unfold Obligations.LdiLoadsThroughThePointer
  intro dr off s
  have hmem := s.readEffect_memKept (s.pc + sext9 off)
  have hcore := (coreKept.refl s).readEffect (s.pc + sext9 off)
  exact ⟨_, rfl, State.loadInto_of_kept hmem hcore dr (s.memRead (s.pc + sext9 off)).1⟩

/-! The stores. -/

/-- Settles O21: ST is one store, at the PC-relative address. -/
theorem stStoresPcRelative : Obligations.StStoresPcRelative := by
  unfold Obligations.StStoresPcRelative
  exact fun sr off s => ⟨_, rfl, s.memWrite_frame (s.pc + sext9 off) (s.readReg sr)⟩

/-- Settles O22: STR is one store, at the base+offset address. -/
theorem strStoresBasePlusOffset : Obligations.StrStoresBasePlusOffset := by
  unfold Obligations.StrStoresBasePlusOffset
  exact fun sr baseR off s =>
    ⟨_, rfl, s.memWrite_frame (s.readReg baseR + sext6 off) (s.readReg sr)⟩

/-- Settles O23: the store runs on the state that the MemRead of the pointer left. -/
theorem stiStoresThroughThePointer : Obligations.StiStoresThroughThePointer := by
  unfold Obligations.StiStoresThroughThePointer
  intro sr off s
  have hmem := s.readEffect_memKept (s.pc + sext9 off)
  have hcore := (coreKept.refl s).readEffect (s.pc + sext9 off)
  exact ⟨_, rfl, State.rawRead_memWrite_same _ _ _,
    fun a ha => State.rawRead_memWrite_other ha _ _, hmem.memWrite _ _, rfl, hcore.memWrite _ _⟩

end Sys2Proof.Machine
end

section
/-! The unsupported opcodes RTI and RES (43_unsupported.md R180 to R182): their whole effect is to raise
the fault of their cause over the state they ran from. -/

namespace Sys2Proof.Machine

@[simp] theorem exec_rti (s : State) : exec .rti s = .next (s.raiseFault .rti) := rfl

@[simp] theorem exec_res (s : State) : exec .res s = .next (s.raiseFault .res) := rfl

/-- Settles O35: the state RTI leaves is the one `raise Fault(RTI)` leaves, field by field. -/
theorem rtiRaisesItsFault : Obligations.RtiRaisesItsFault := by
  unfold Obligations.RtiRaisesItsFault
  exact fun s => ⟨exec_rti s, rfl⟩

/-- Settles O36: the state RES leaves is the one `raise Fault(RES)` leaves, field by field. -/
theorem resRaisesItsFault : Obligations.ResRaisesItsFault := by
  unfold Obligations.ResRaisesItsFault
  exact fun s => ⟨exec_res s, rfl⟩

end Sys2Proof.Machine
end

section
/-! The TRAP routines (44_trap.md R200 to R208). Each begins with the link and what it writes to the
console, in the order its rule lists them, and then ends, reads a byte, halts or faults. So the laws
below speak of a state `u` that `trapEntered` relates to the state `s` the routine ran from. -/

namespace Sys2Proof.Machine

/-! The entry: the link and the console output. -/

/-- `u` is what TRAP's entry and writes to the console make of `s`: R7 holds the return address, the
output is free, and all else is unchanged (R200, R208). -/
def trapEntered (s u : State) : Prop :=
  u.input = s.input ∧ u.readReg 7#3 = s.pc ∧ regsKept [7#3] s u ∧ runKept s u ∧ u.cond = s.cond ∧
    u.pc = s.pc ∧ memKept [] s u ∧ fixedKept s u

theorem State.regsKept_link (s : State) : regsKept [7#3] s s.link :=
  fun _ hr => State.readReg_writeReg_other (List.ne_of_not_mem_cons hr) s s.pc

theorem State.readReg_link_reg0 (s : State) : s.link.readReg reg0 = s.readReg reg0 :=
  s.regsKept_link reg0 (by decide)

theorem State.trapEntered_link (s : State) : trapEntered s s.link :=
  ⟨rfl, s.readReg_link_reg7, s.regsKept_link, ⟨rfl, rfl, rfl⟩, rfl, rfl, memKept.refl s, rfl, rfl,
    rfl⟩

theorem trapEntered.writeChars {s u : State} (h : trapEntered s u) (bs : List Byte) :
    trapEntered s (u.writeChars bs) := h

/-- Settles O37: the entry's link, then the fault, which writes run state and exit status alone. -/
theorem undefinedVectorWritesR7ThenFaults : Obligations.UndefinedVectorWritesR7ThenFaults := by
  unfold Obligations.UndefinedVectorWritesR7ThenFaults
  intro v s
  obtain ⟨hin, hr7, hregs, ⟨-, -, hwait⟩, hcond, hpc, hmem, hfixed⟩ := s.trapEntered_link
  exact ⟨s.link.raiseFault (.badTrap v), rfl, hr7, rfl, rfl, rfl, hregs, hcond, hpc, hmem,
    ⟨hin, rfl⟩, hwait, hfixed⟩

/-- Settles O47: the entry's link and the notice, then the end of the run. -/
theorem haltStopsWithStatusZero : Obligations.HaltStopsWithStatusZero := by
  unfold Obligations.HaltStopsWithStatusZero
  intro s
  obtain ⟨hin, hr7, hregs, ⟨-, -, hwait⟩, hcond, hpc, hmem, hfixed⟩ :=
    s.trapEntered_link.writeChars s.params.haltNotice
  exact ⟨(s.link.writeChars s.params.haltNotice).halt, rfl, rfl, rfl, rfl, hin, hr7, hregs, hwait,
    hcond, hpc, hmem, hfixed⟩

theorem lowByte_eq_ofNat (w : Word) : lowByte w = BitVec.ofNat 8 (w.toNat % 256) := by
  apply BitVec.eq_of_toNat_eq
  simp [lowByte]

theorem exec_trapOut (s : State) :
    exec .trapOut s = .next (s.link.writeChars [lowByte (s.readReg reg0)]) := by
  rw [← s.readReg_link_reg0]
  rfl

/-- Settles O43: OUT is its entry, which leaves R0, and one byte. -/
theorem outWritesTheLowByte : Obligations.OutWritesTheLowByte := by
  unfold Obligations.OutWritesTheLowByte
  intro s
  rw [exec_trapOut, ← lowByte_eq_ofNat]
  exact ⟨_, rfl, rfl, s.trapEntered_link.writeChars _⟩

/-! The string routines PUTS and PUTSP. -/

theorem exec_trapPuts (s : State) :
    exec .trapPuts s = s.link.writeString (s.link.putsWalk memCells (s.readReg reg0)) := by
  rw [← s.readReg_link_reg0]
  rfl

theorem exec_trapPutsp (s : State) :
    exec .trapPutsp s = s.link.writeString (s.link.putspWalk memCells (s.readReg reg0)) := by
  rw [← s.readReg_link_reg0]
  rfl

/-- Over the entry's link, the bytes of the walk are the whole effect (R203, R205). -/
theorem State.writeString_link {s : State} {walk : Option (List Byte)} {bs : List Byte}
    (h : walk = some bs) :
    ∃ t, s.link.writeString walk = .next t ∧ t.output = s.output ++ bs ∧ trapEntered s t := by
  rw [h]
  exact ⟨_, rfl, rfl, s.trapEntered_link.writeChars bs⟩

/-- Settles O44: the link leaves memory, so PUTS walks the string as it stands. -/
theorem putsWritesUpToTheZeroWord : Obligations.PutsWritesUpToTheZeroWord := by
  unfold Obligations.PutsWritesUpToTheZeroWord
  intro s n hn hne hz
  rw [exec_trapPuts]
  exact State.writeString_link (s.link.putsWalk_eq hn hne hz)

/-- Settles O45: the link leaves memory and parameters, so PUTSP walks the string as it stands. -/
theorem putspWritesPackedCharacters : Obligations.PutspWritesPackedCharacters := by
  unfold Obligations.PutspWritesPackedCharacters
  intro s n
  rw [exec_trapPutsp]
  exact ⟨fun ht hn hne hz => State.writeString_link (s.link.putspWalk_zeroWord_eq ht hn hne hz),
    fun ht hn hne hz => State.writeString_link (s.link.putspWalk_zeroByte_eq ht hn hne hz)⟩

theorem exists_first {P : Nat → Prop} [DecidablePred P] {k m : Nat} (hk : k < m) (h : P k) :
    ∃ n, n < m ∧ (∀ j, j < n → ¬ P j) ∧ P n :=
  ⟨Nat.find ⟨k, h⟩, (Nat.find_le h).trans_lt hk, fun _ => Nat.find_min _, Nat.find_spec _⟩

/-- The pointer, stepping from R0 and wrapping, comes to every address (R58). -/
theorem State.exists_stringWord (s : State) (a : Word) :
    ∃ k, k < 65536 ∧ s.stringWord k = s.rawRead a := by
  refine ⟨(a - s.readReg reg0).toNat, (a - s.readReg reg0).isLt, ?_⟩
  rw [State.stringWord, BitVec.ofNat_toNat, BitVec.setWidth_eq, add_sub_cancel]

/-- A zero cell is the end of the string R0 points at, or comes after it. -/
theorem State.exists_first_zeroWord {s : State} (h : ∃ a, s.rawRead a = 0x0000#16) :
    ∃ n, n < 65536 ∧ (∀ k, k < n → s.stringWord k ≠ 0x0000#16) ∧ s.stringWord n = 0x0000#16 := by
  obtain ⟨a, ha⟩ := h
  obtain ⟨k, hk, hka⟩ := s.exists_stringWord a
  exact exists_first hk (hka.trans ha)

theorem State.packedByte_low (s : State) (k : Nat) :
    s.packedByte (2 * k) = lowByte (s.stringWord k) := by
  simp [State.packedByte]

theorem State.packedByte_high (s : State) (k : Nat) :
    s.packedByte (2 * k + 1) = highByte (s.stringWord k) := by
  have hdiv : (2 * k + 1) / 2 = k := by omega
  simp [State.packedByte, hdiv]

/-- A zero byte is the end of the packed string R0 points at, or comes after it. -/
theorem State.exists_first_zeroByte {s : State}
    (h : ∃ a, lowByte (s.rawRead a) = 0#8 ∨ highByte (s.rawRead a) = 0#8) :
    ∃ n, n < 131072 ∧ (∀ j, j < n → s.packedByte j ≠ 0#8) ∧ s.packedByte n = 0#8 := by
  obtain ⟨a, ha⟩ := h
  obtain ⟨k, hk, hka⟩ := s.exists_stringWord a
  rw [← hka, ← s.packedByte_low, ← s.packedByte_high] at ha
  obtain hlow | hhigh := ha
  · exact exists_first (by omega) hlow
  · exact exists_first (by omega) hhigh

/-- Settles O46: a first end of the string, where O44 and O45 apply, or none for the walk to find. -/
theorem stringRoutinesEndIfAZeroExists : Obligations.StringRoutinesEndIfAZeroExists := by
  unfold Obligations.StringRoutinesEndIfAZeroExists
  intro s
  refine ⟨fun hz => ?_, fun hne => ?_, fun ht => ⟨fun hz => ?_, fun hne => ?_⟩,
    fun ht => ⟨fun hz => ?_, fun hne => ?_⟩⟩
  · obtain ⟨n, hn, hbefore, hend⟩ := State.exists_first_zeroWord hz
    exact (putsWritesUpToTheZeroWord s n hn hbefore hend).imp fun _ => And.left
  · rw [exec_trapPuts]
    exact congrArg s.link.writeString (State.putsWalk_none (s := s.link) hne _ _)
  · obtain ⟨n, hn, hbefore, hend⟩ := State.exists_first_zeroWord hz
    exact ((putspWritesPackedCharacters s n).1 ht hn hbefore hend).imp fun _ => And.left
  · rw [exec_trapPutsp]
    have hterm : s.params.putspTerm ≠ .zeroByte := by simp [ht]
    exact congrArg s.link.writeString (State.putspWalk_none (s := s.link) hne (absurd · hterm) _ _)
  · obtain ⟨n, hn, hbefore, hend⟩ := State.exists_first_zeroByte hz
    exact ((putspWritesPackedCharacters s n).2 ht hn hbefore hend).imp fun _ => And.left
  · rw [exec_trapPutsp]
    have hword (a : Word) : s.rawRead a ≠ 0x0000#16 := fun h => (hne a).1 (zeroWord_lowByte h)
    exact congrArg s.link.writeString (State.putspWalk_none (s := s.link) hword (fun _ => hne) _ _)

/-! The blocking read of GETC and IN. -/

/-- What a routine writes to the console with the byte it read: IN echoes it (R201, R204). -/
def ReadRoutine.echo (r : ReadRoutine) (c : Byte) : List Byte :=
  match r with
  | .getc => []
  | .inEcho => [c]

theorem State.finishRead_output (s : State) (r : ReadRoutine) (c : Byte) :
    (s.finishRead r c).output = s.output ++ r.echo c := by
  cases r
  · exact (List.append_nil s.output).symm
  · rfl

/-- A blocking read, ending or waiting, leaves all but the console, R0 and the wait (R208). -/
theorem State.blockingRead_frame (s : State) (r : ReadRoutine) :
    regsKept [0#3] s (s.blockingRead r) ∧ (s.blockingRead r).cond = s.cond ∧
      (s.blockingRead r).pc = s.pc ∧ memKept [] s (s.blockingRead r) ∧
      (s.blockingRead r).run = s.run ∧ (s.blockingRead r).exitStatus = s.exitStatus ∧
      fixedKept s (s.blockingRead r) :=
  ⟨fun _ hq => s.readReg_blockingRead_other (List.ne_of_not_mem_cons hq) r, s.blockingRead_cond r,
    s.blockingRead_pc r, fun a _ => s.rawRead_blockingRead r a, s.blockingRead_run r,
    s.blockingRead_exitStatus r, s.blockingRead_ir r, s.blockingRead_abortIn r,
    s.blockingRead_params r⟩

section
variable {s : State} {c : Byte} {rest : List HostTurn}

theorem State.blockingRead_of_key (h : s.input = .key c :: rest) (r : ReadRoutine) :
    s.blockingRead r = { s with input := rest, waiting := none }.finishRead r c := by
  unfold State.blockingRead
  rw [h]

theorem State.blockingRead_of_no_key (h : ∀ c rest, s.input ≠ .key c :: rest) (r : ReadRoutine) :
    s.blockingRead r = { s with input := s.input.tail, waiting := some r } := by
  obtain ⟨c, rest, hk, -⟩ | ⟨-, hb⟩ := s.blockingRead_cases r
  · exact absurd hk (h c rest)
  · exact hb

/-- With a byte ready the wait is over, R0 takes the byte, and the byte is consumed and echoed
(R201, R204, R253). -/
theorem State.blockingRead_takes_key (h : s.input = .key c :: rest) (r : ReadRoutine) :
    (s.blockingRead r).waiting = none ∧ (s.blockingRead r).readReg 0#3 = zext16 c ∧
      (s.blockingRead r).input = rest ∧ (s.blockingRead r).output = s.output ++ r.echo c := by
  rw [State.blockingRead_of_key h]
  exact ⟨State.finishRead_waiting _ r c, State.readReg_finishRead _ r c reg0,
    State.finishRead_input _ r c, State.finishRead_output _ r c⟩

/-- With no byte ready the core waits, and no byte is consumed (R257). -/
theorem State.blockingRead_waits (h : ∀ c rest, s.input ≠ .key c :: rest) (r : ReadRoutine) :
    (s.blockingRead r).waiting = some r ∧ regsKept [] s (s.blockingRead r) ∧
      comingBytes (s.blockingRead r).input = comingBytes s.input ∧
      (s.blockingRead r).output = s.output := by
  rw [State.blockingRead_of_no_key h]
  exact ⟨rfl, fun _ _ => rfl, comingBytes_tail h, rfl⟩

end

/-- A waiting core's step goes on with its blocking read (R257). -/
theorem step_of_waiting {s : State} {r : ReadRoutine} (hrun : s.run = .running)
    (habort : s.abortIn ≠ some 0) (hwait : s.waiting = some r) :
    step s = .next (s.tickAbort.blockingRead r) := by
  obtain ⟨hr, -⟩ | ⟨-, ha, -⟩ | ⟨q, -, -, hq, hs⟩ | ⟨⟨-, hw, -⟩, -⟩ := step_cases s
  · exact absurd hrun hr
  · exact absurd ha habort
  · cases hwait.symm.trans hq
    exact hs
  · cases hwait.symm.trans hw

/-- Settles O42: the step of a waiting core is one more try at its blocking read. -/
theorem waitEndsWhenTheByteComes : Obligations.WaitEndsWhenTheByteComes := by
  unfold Obligations.WaitEndsWhenTheByteComes
  intro s k hrun habort hwait
  obtain ⟨hregs, hcond, hpc, hmem, hr, hexit, hir, -⟩ := s.tickAbort.blockingRead_frame k
  have hrun' := hr.trans hrun
  rw [step_of_waiting hrun habort hwait]
  constructor
  · intro c rest hkey
    obtain ⟨hover, hr0, hin, hout⟩ := State.blockingRead_takes_key (s := s.tickAbort) hkey k
    exact ⟨_, rfl, hover, hr0, hregs, hin, hout, hcond, hpc, hmem, hrun', hexit, hir⟩
  · intro hquiet
    obtain ⟨hwaits, hsame, hin, hout⟩ := State.blockingRead_waits (s := s.tickAbort) hquiet k
    exact ⟨_, rfl, hwaits, hsame, hin, hout, hcond, hpc, hmem, hrun', hexit, hir⟩

/-! GETC and IN: a blocking read after the entry. -/

theorem regsKept.trans {rs rs' : List RegId} {s u t : State} (h : regsKept rs s u)
    (h' : regsKept rs' u t) : regsKept (rs' ++ rs) s t := by
  intro r hr
  obtain ⟨hr', hrs⟩ := not_or.mp (mt List.mem_append.mpr hr)
  exact (h' r hr').trans (h r hrs)

section
variable {s u : State} (h : trapEntered s u)
include h

/-- What a blocking read after the entry leaves, whether it ends or waits (R201, R204, R208). -/
theorem trapEntered.blockingRead (r : ReadRoutine) :
    (u.blockingRead r).readReg 7#3 = s.pc ∧ regsKept [0#3, 7#3] s (u.blockingRead r) ∧
      (u.blockingRead r).run = s.run ∧ (u.blockingRead r).exitStatus = s.exitStatus ∧
      (u.blockingRead r).cond = s.cond ∧ (u.blockingRead r).pc = s.pc ∧
      memKept [] s (u.blockingRead r) ∧ fixedKept s (u.blockingRead r) := by
  obtain ⟨-, hr7, hregs, ⟨hrun, hexit, -⟩, hcond, hpc, hmem, hir, habort, hparams⟩ := h
  obtain ⟨kregs, kcond, kpc, kmem, krun, kexit, kir, kabort, kparams⟩ := u.blockingRead_frame r
  exact ⟨(kregs 7#3 (by decide)).trans hr7, hregs.trans kregs, krun.trans hrun, kexit.trans hexit,
    kcond.trans hcond, kpc.trans hpc, fun a ha => (kmem a ha).trans (hmem a ha), kir.trans hir,
    kabort.trans habort, kparams.trans hparams⟩

theorem trapEntered.blockingRead_takes_key {c : Byte} {rest : List HostTurn}
    (hin : s.input = .key c :: rest) (hw : s.waiting = none) (r : ReadRoutine) :
    (u.blockingRead r).output = u.output ++ r.echo c ∧ (u.blockingRead r).readReg 0#3 = zext16 c ∧
      (u.blockingRead r).readReg 7#3 = s.pc ∧ (u.blockingRead r).input = rest ∧
      regsKept [0#3, 7#3] s (u.blockingRead r) ∧ runKept s (u.blockingRead r) ∧
      (u.blockingRead r).cond = s.cond ∧ (u.blockingRead r).pc = s.pc ∧
      memKept [] s (u.blockingRead r) ∧ fixedKept s (u.blockingRead r) := by
  have ⟨hinput, _⟩ := h
  obtain ⟨hover, hr0, hrest, hout⟩ := State.blockingRead_takes_key (hinput.trans hin) r
  obtain ⟨hr7, hregs, hrun, hexit, hframe⟩ := h.blockingRead r
  exact ⟨hout, hr0, hr7, hrest, hregs, ⟨hrun, hexit, hover.trans hw.symm⟩, hframe⟩

theorem trapEntered.blockingRead_waits (hin : ∀ c rest, s.input ≠ .key c :: rest)
    (r : ReadRoutine) :
    (u.blockingRead r).waiting = some r ∧ (u.blockingRead r).output = u.output ∧
      (u.blockingRead r).readReg 7#3 = s.pc ∧ regsKept [7#3] s (u.blockingRead r) ∧
      comingBytes (u.blockingRead r).input = comingBytes s.input ∧
      (u.blockingRead r).run = s.run ∧ (u.blockingRead r).exitStatus = s.exitStatus ∧
      (u.blockingRead r).cond = s.cond ∧ (u.blockingRead r).pc = s.pc ∧
      memKept [] s (u.blockingRead r) ∧ fixedKept s (u.blockingRead r) := by
  have ⟨hinput, _, hlink, _⟩ := h
  obtain ⟨hwaits, hsame, hcoming, hout⟩ := State.blockingRead_waits (hinput ▸ hin) r
  obtain ⟨hr7, -, hframe⟩ := h.blockingRead r
  exact ⟨hwaits, hout, hr7, hlink.trans hsame, hcoming.trans (congrArg comingBytes hinput), hframe⟩

end

/-- Settles O39: GETC echoes nothing, so its blocking read writes nothing. -/
theorem getcReadsOneByte : Obligations.GetcReadsOneByte := by
  unfold Obligations.GetcReadsOneByte
  intro s c rest hin hw
  obtain ⟨hout, hr0, hr7, hrest, hframe⟩ := s.trapEntered_link.blockingRead_takes_key hin hw .getc
  exact ⟨_, rfl, hr0, hr7, hrest, hout.trans (List.append_nil _), hframe⟩

/-- Settles O40: IN's blocking read comes after the prompt and echoes the byte. -/
theorem inPromptsReadsAndEchoes : Obligations.InPromptsReadsAndEchoes := by
  unfold Obligations.InPromptsReadsAndEchoes
  exact fun s c rest hin hw => ⟨_, rfl,
    (s.trapEntered_link.writeChars s.params.inPrompt).blockingRead_takes_key hin hw .inEcho⟩

/-- Settles O41: both routines wait after their entry, IN's with the prompt. -/
theorem blockingReadWaitsWithoutAByte : Obligations.BlockingReadWaitsWithoutAByte := by
  unfold Obligations.BlockingReadWaitsWithoutAByte
  exact fun s hin => ⟨⟨_, rfl, s.trapEntered_link.blockingRead_waits hin .getc⟩, _, rfl,
    (s.trapEntered_link.writeChars s.params.inPrompt).blockingRead_waits hin .inEcho⟩

/-! What every routine writes. -/

/-- The four ways a TRAP that answers ends after its entry: with no more, with the blocking read of
GETC and IN, with HALT's end of the run, or with the fault of an undefined vector (R208). -/
theorem exec_trap_cases {i : Instr} {s t : State} (hi : isTrap i = true) (he : exec i s = .next t) :
    ∃ u, trapEntered s u ∧ (t = u ∨ ((i = .trapGetc ∨ i = .trapIn) ∧ ∃ r, t = u.blockingRead r) ∨
      (i = .trapHalt ∧ t = u.halt) ∨
      ∃ v, i = .trapUndefined v ∧ t = u.raiseFault (.badTrap v)) := by
  have hlink := s.trapEntered_link
  cases i with
  | trapOut => cases he; exact ⟨_, hlink.writeChars _, .inl rfl⟩
  | trapPuts | trapPutsp =>
    obtain ⟨bs, rfl⟩ := State.writeString_next he
    exact ⟨_, hlink.writeChars bs, .inl rfl⟩
  | trapGetc => cases he; exact ⟨_, hlink, .inr (.inl ⟨.inl rfl, _, rfl⟩)⟩
  | trapIn => cases he; exact ⟨_, hlink.writeChars _, .inr (.inl ⟨.inr rfl, _, rfl⟩)⟩
  | trapHalt => cases he; exact ⟨_, hlink.writeChars _, .inr (.inr (.inl ⟨rfl, rfl⟩))⟩
  | trapUndefined v => cases he; exact ⟨_, hlink, .inr (.inr (.inr ⟨v, rfl, rfl⟩))⟩
  | _ => simp [isTrap] at hi

/-- Settles O48: beyond the entry, a blocking read adds R0, and HALT and a fault the run state. -/
theorem trapsWriteOnlyWhatTheyList : Obligations.TrapsWriteOnlyWhatTheyList := by
  unfold Obligations.TrapsWriteOnlyWhatTheyList
  intro i s t hi he
  obtain ⟨u, hu, hend⟩ := exec_trap_cases hi he
  have ⟨_, hr7, hregs, ⟨hrun, hexit, _⟩, hcond, hpc, hmem, _⟩ := hu
  have hregs' : regsKept [0#3, 7#3] s u := fun r hr => hregs r (mt (List.mem_cons_of_mem _) hr)
  have hr0 : u.readReg 0#3 = s.readReg 0#3 := hregs 0#3 (by decide)
  obtain rfl | ⟨hread, r, rfl⟩ | ⟨rfl, rfl⟩ | ⟨v, rfl, rfl⟩ := hend
  · exact ⟨hr7, hcond, hpc, hmem, hregs', fun _ _ => hr0, fun _ _ => ⟨hrun, hexit⟩⟩
  · obtain ⟨kr7, kregs, krun, kexit, kcond, kpc, kmem, -⟩ := hu.blockingRead r
    exact ⟨kr7, kcond, kpc, kmem, kregs, fun hg hn => absurd hread (not_or.mpr ⟨hg, hn⟩),
      fun _ _ => ⟨krun, kexit⟩⟩
  · exact ⟨hr7, hcond, hpc, hmem, hregs', fun _ _ => hr0, fun h => absurd rfl h⟩
  · exact ⟨hr7, hcond, hpc, hmem, hregs', fun _ _ => hr0, fun _ h => absurd rfl (h v)⟩

end Sys2Proof.Machine
end

section
/-! The console's streams (44_trap.md R209; 60_exceptions.md R253, R254): which operations append to
the output and which use up answers of the host. -/

namespace Sys2Proof.Machine

/-- From `s` to `t` the output has only grown at its end, the host's answers have only been used up
from the front, and the parameters are the same. -/
def streamsInOrder (s t : State) : Prop :=
  s.output <+: t.output ∧ t.input <:+ s.input ∧ t.params = s.params

theorem streamsInOrder.refl (s : State) : streamsInOrder s s :=
  ⟨⟨[], List.append_nil _⟩, List.suffix_rfl, rfl⟩

theorem streamsInOrder.trans {s u t : State} (h : streamsInOrder s u) (h' : streamsInOrder u t) :
    streamsInOrder s t :=
  let ⟨hout, hin, hparams⟩ := h
  let ⟨hout', hin', hparams'⟩ := h'
  ⟨hout.trans hout', hin'.trans hin, hparams'.trans hparams⟩

theorem State.streamsInOrder_writeChars (s : State) (bs : List Byte) :
    streamsInOrder s (s.writeChars bs) :=
  ⟨⟨bs, rfl⟩, List.suffix_rfl, rfl⟩

theorem State.streamsInOrder_readEffect (s : State) (a : Word) :
    streamsInOrder s (s.readEffect a) :=
  ⟨⟨[], (List.append_nil _).trans (s.readEffect_output a).symm⟩, s.readEffect_input_suffix a,
    s.readEffect_params a⟩

theorem State.streamsInOrder_loadInto (s : State) (dr : RegId) (a : Word) :
    streamsInOrder s (s.loadInto dr a) := s.streamsInOrder_readEffect a

theorem State.streamsInOrder_blockingRead (s : State) (r : ReadRoutine) :
    streamsInOrder s (s.blockingRead r) := by
  obtain ⟨b, rest, hin, hb⟩ | ⟨-, hb⟩ := s.blockingRead_cases r <;> rw [hb]
  · refine ⟨?_, ?_, State.finishRead_params _ r b⟩
    · rw [State.finishRead_output]
      exact ⟨_, rfl⟩
    · rw [State.finishRead_input, hin]
      exact List.suffix_cons _ rest
  · exact ⟨⟨[], List.append_nil _⟩, List.tail_suffix s.input, rfl⟩

/-- An instruction reaches the console through a poll, a blocking read or its own writes alone. -/
theorem exec_streamsInOrder {i : Instr} {s t : State} (he : exec i s = .next t) :
    streamsInOrder s t := by
  cases i with
  | trapPuts | trapPutsp =>
    obtain ⟨bs, rfl⟩ := State.writeString_next he
    exact s.link.streamsInOrder_writeChars bs
  | trapOut | trapHalt => cases he; exact s.link.streamsInOrder_writeChars _
  | trapGetc => cases he; exact s.link.streamsInOrder_blockingRead _
  | trapIn =>
    cases he
    have hprompt := s.link.streamsInOrder_writeChars s.params.inPrompt
    exact hprompt.trans (State.streamsInOrder_blockingRead _ .inEcho)
  | ld | ldr => cases he; exact s.streamsInOrder_loadInto _ _
  | ldi dr off =>
    obtain rfl := Host.Outcome.next.inj he
    have hpointer := s.streamsInOrder_readEffect (s.pcRel9 off)
    exact hpointer.trans (State.streamsInOrder_loadInto _ dr (s.memRead (s.pcRel9 off)).1)
  | sti => cases he; exact s.streamsInOrder_readEffect _
  | br n z p off => cases he; split <;> exact streamsInOrder.refl s
  | addReg | addImm | andReg | andImm | not | lea | jmp | jsr | jsrr | st | str | rti | res
  | trapUndefined => cases he; exact streamsInOrder.refl s

theorem step_streamsInOrder {s t : State} (he : step s = .next t) : streamsInOrder s t := by
  obtain ⟨-, hs⟩ | ⟨-, -, hs⟩ | ⟨r, -, -, -, hs⟩ | ⟨-, hs⟩ := step_cases s <;> rw [hs] at he
  · cases he
    exact streamsInOrder.refl s
  · cases he
    exact streamsInOrder.refl s
  · cases he
    exact s.tickAbort.streamsInOrder_blockingRead r
  · have hfetch : streamsInOrder s s.tickAbort.fetch := s.tickAbort.streamsInOrder_readEffect s.pc
    exact hfetch.trans (exec_streamsInOrder he)

/-- Settles O54: the bytes appended and the answers used up are those the two streams differ by. -/
theorem consoleStreamsKeepTheirOrder : Obligations.ConsoleStreamsKeepTheirOrder := by
  unfold Obligations.ConsoleStreamsKeepTheirOrder
  intro s t he
  obtain ⟨⟨bs, hout⟩, ⟨used, hin⟩, hparams⟩ := step_streamsInOrder he
  exact ⟨⟨bs, hout.symm⟩, ⟨used, hin.symm⟩, hparams⟩

end Sys2Proof.Machine
end

section
/-! The ends of a run that no instruction asks for (60_exceptions.md R243, R246): the host's abort, and
the model's stop for a string that nothing ends (log 10). -/

namespace Sys2Proof.Machine

/-- Settles O51: of the ways a step answers, only the abort's meets an abort asserted now. -/
theorem abortEndsTheRun : Obligations.AbortEndsTheRun := by
  unfold Obligations.AbortEndsTheRun
  intro s hrun habort
  obtain ⟨hr, -⟩ | ⟨-, -, hs⟩ | ⟨_, -, ha, -⟩ | ⟨⟨-, -, ha⟩, -⟩ := step_cases s
  · exact absurd hrun hr
  · exact hs
  · exact absurd habort ha
  · exact absurd habort ha

/-- A zero cell ends the string of either routine, under both settings of PUTSP: a zero word has a zero
low byte (R203, R205). -/
theorem exec_string_next_of_zeroWord {i : Instr} {s : State} (hi : i = .trapPuts ∨ i = .trapPutsp)
    (hz : ∃ a, s.rawRead a = 0x0000#16) : ∃ t, exec i s = .next t := by
  obtain ⟨hputs, -, hword, hbyte⟩ := stringRoutinesEndIfAZeroExists s
  obtain rfl | rfl := hi
  · exact hputs hz
  · cases ht : s.params.putspTerm with
    | zeroWord => exact (hword ht).1 hz
    | zeroByte => exact (hbyte ht).1 (hz.imp fun _ ha => .inl (zeroWord_lowByte ha))

/-- What a step answers: a next state, or the stop of PUTS or PUTSP over a memory with no zero cell. -/
theorem step_next_or_endless (s : State) :
    (∃ t, step s = .next t) ∨
    (step s = .fault .stringNeverEnds ∧ s.Ready ∧
      (decodeWord (s.memRead s.pc).1 = .trapPuts ∨ decodeWord (s.memRead s.pc).1 = .trapPutsp) ∧
      ∀ a, (s.memRead s.pc).2.rawRead a ≠ 0x0000#16) := by
  obtain ⟨-, hs⟩ | ⟨-, -, hs⟩ | ⟨_, -, -, -, hs⟩ | ⟨hready, hs⟩ := step_cases s
  · exact .inl ⟨_, hs⟩
  · exact .inl ⟨_, hs⟩
  · exact .inl ⟨_, hs⟩
  have hword : s.tickAbort.fetch.ir = (s.memRead s.pc).1 := s.memRead_tickAbort_fst s.pc
  have hcell (a : Word) : s.tickAbort.fetch.rawRead a = (s.memRead s.pc).2.rawRead a :=
    State.rawRead_congr (by simp) a
  rw [hs, ← hword]
  simp only [← hcell]
  obtain hnext | ⟨hfault, hstring⟩ := exec_next_or_string _ s.tickAbort.fetch
  · exact .inl hnext
  · refine .inr ⟨hfault, hready, hstring, fun a hz => ?_⟩
    obtain ⟨t, ht⟩ := exec_string_next_of_zeroWord hstring ⟨a, hz⟩
    cases hfault.symm.trans ht

/-- Settles O55: neither answer of `step_next_or_endless` is a refusal, and only one is a fault. -/
theorem onlyAnEndlessStringStops : Obligations.OnlyAnEndlessStringStops := by
  unfold Obligations.OnlyAnEndlessStringStops
  intro s
  obtain ⟨t, hs⟩ | ⟨hs, hstop⟩ := step_next_or_endless s <;> rw [hs]
  · exact ⟨nofun, nofun⟩
  · refine ⟨nofun, fun r hr => ?_⟩
    cases hr
    exact ⟨rfl, hstop⟩

end Sys2Proof.Machine
end

section
/-! The loader port and start-up (70_reset_and_hazards.md R270 to R272). -/

namespace Sys2Proof.Machine

/-! One image. -/

/-- What the loop of R271 leaves in cell `x`: word `x - a` of the list when it is a whole word and the
cell is one of the 65,536, else what stood there. -/
theorem Memory.read_loadWords : ∀ (b : List Byte) (a : Nat) (m : Memory) (x : Nat),
    (loadWords b a m).read x =
      if a ≤ x ∧ x < memCells ∧ 2 * (x - a) + 1 < b.length then
        beWord (b.getD (2 * (x - a)) 0#8) (b.getD (2 * (x - a) + 1) 0#8)
      else m.read x
  | [], _, _, _ => by simp [loadWords]
  | [_], _, _, _ => by simp [loadWords]
  | hi :: lo :: rest, a, m, x => by
    rw [loadWords]
    split
    · next ha =>
      rw [Memory.read_loadWords rest (a + 1), Memory.read_write]
      obtain hlt | rfl | hgt := Nat.lt_trichotomy x a
      · have hbelow : ¬ a ≤ x ∧ ¬ a + 1 ≤ x := by omega
        simp [hbelow, hlt.ne]
      · simp [ha]
      · obtain ⟨k, rfl⟩ := Nat.exists_eq_add_of_lt hgt
        have hindex : a + k + 1 - a = k + 1 ∧ a + k + 1 - (a + 1) = k := by omega
        have hle : a ≤ a + k + 1 ∧ a + 1 ≤ a + k + 1 := by omega
        have hlen : 2 * k + 2 ≤ rest.length ↔ 2 * k + 1 < rest.length := Iff.rfl
        simp [hindex, hle, hlen, Nat.mul_add, hgt.ne']
    · next ha => exact (if_neg fun ⟨hle, htop, _⟩ => ha (Nat.lt_of_le_of_lt hle htop)).symm

/-- The words an image places are those of R271's loop from its origin over the bytes after it, in the
terms of `Memory.read_loadWords`. -/
theorem imageWord_cons (hi lo : Byte) (b : List Byte) (a : Nat) :
    imageWord (hi :: lo :: b) a =
      if (beWord hi lo).toNat ≤ a ∧ a < memCells ∧ 2 * (a - (beWord hi lo).toNat) + 1 < b.length then
        some (beWord (b.getD (2 * (a - (beWord hi lo).toNat)) 0#8)
          (b.getD (2 * (a - (beWord hi lo).toNat) + 1) 0#8))
      else none := by
  simp only [imageWord, beWord, memCells, List.getD_cons_zero, List.getD_cons_succ,
    List.length_cons, Nat.add_comm 2, Nat.add_comm 3]
  refine if_congr ?_ rfl rfl
  omega

/-- Loading an image with an origin word leaves in each cell the word the image places there, if it
places one, and keeps the memory canonical (R271). -/
theorem loadImage_ok {b : List Byte} (hb : 2 ≤ b.length) (m : Memory) :
    ∃ m', loadImage b m = .ok m' ∧ (∀ a, m'.read a = (imageWord b a).getD (m.read a)) ∧
      (m.wf = true → m'.wf = true) := by
  obtain ⟨hshort, -⟩ | ⟨hi, lo, rest, rfl, hload⟩ := loadImage_cases b m
  · omega
  · refine ⟨_, hload, fun a => ?_, loadWords_wf rest _⟩
    rw [Memory.read_loadWords, imageWord_cons]
    split <;> rfl

/-- Settles O57: the origin is the first word, and `Memory.read_loadWords` gives every cell. -/
theorem loaderPlacesBigEndianWords : Obligations.LoaderPlacesBigEndianWords := by
  unfold Obligations.LoaderPlacesBigEndianWords
  intro hi lo b m
  refine ⟨_, rfl, fun k hk htop => ?_, fun a ha => ?_⟩
  · rw [Memory.read_loadWords, if_pos (by unfold beWord memCells; omega)]
    simp [beWord]
  · rw [Memory.read_loadWords]
    refine if_neg fun ⟨hle, htop, hlen⟩ => ?_
    have hk := Nat.add_sub_of_le hle
    exact ha _ hlen (by rwa [← beWord, hk]) hk.symm

/-! All images, in argument order. -/

theorem loadImages_cons_of_ok {b : List Byte} {m m' : Memory} (h : loadImage b m = .ok m')
    (rest : List (List Byte)) : loadImages (b :: rest) m = loadImages rest m' := by
  rw [loadImages, h]

/-- The last image that places a word in a cell wins (R271). -/
theorem loadImages_ok : ∀ {images : List (List Byte)}, (∀ b ∈ images, 2 ≤ b.length) →
    ∀ m : Memory, ∃ m', loadImages images m = .ok m' ∧
      (∀ a, m'.read a = (images.reverse.findSome? fun b => imageWord b a).getD (m.read a)) ∧
      (m.wf = true → m'.wf = true)
  | [], _, m => ⟨m, rfl, fun _ => rfl, id⟩
  | b :: rest, hlen, m => by
    obtain ⟨hb, hrest⟩ := List.forall_mem_cons.mp hlen
    obtain ⟨m₁, hload, hread, hwf⟩ := loadImage_ok hb m
    obtain ⟨m₂, hloads, hreads, hwfs⟩ := loadImages_ok hrest m₁
    refine ⟨m₂, (loadImages_cons_of_ok hload rest).trans hloads, fun a => ?_, hwfs ∘ hwf⟩
    rw [hreads, hread, List.reverse_cons, List.findSome?_append]
    cases rest.reverse.findSome? fun b => imageWord b a <;> simp

/-- A failing image stops the loading, whatever stands before or after it (R270 step 3). -/
theorem loadImages_of_short : ∀ {images : List (List Byte)}, (∃ b ∈ images, b.length < 2) →
    ∀ m : Memory, loadImages images m = .error .imageFailed
  | b :: rest, hshort, m => by
    obtain ⟨-, hload⟩ | ⟨hi, lo, tail, rfl, hload⟩ := loadImage_cases b m
    · rw [loadImages, hload]
    · rw [loadImages_cons_of_ok hload]
      exact loadImages_of_short (by simpa using hshort) _

/-- Start-up over at least one image is the loading of all of them, then `State.boot` (R270). -/
theorem startUp_of_ne_nil {images : List (List Byte)} (h : images ≠ []) (p : Params) (pc : Word)
    (regs : Vector Word 8) (m : Memory) :
    startUp p pc regs m images = (loadImages images m).map (State.boot p pc regs) := by
  obtain ⟨b, rest, rfl⟩ := List.exists_cons_of_ne_nil h
  simp only [startUp]
  cases loadImages (b :: rest) m <;> rfl

/-- Settles O58: no image is a usage error (R272); the other clauses are those of `loadImages`. -/
theorem startUpErrorsAndSuccess : Obligations.StartUpErrorsAndSuccess := by
  unfold Obligations.StartUpErrorsAndSuccess
  intro p pc regs m images
  refine ⟨?_, fun hshort => ?_, fun hne hlen => ?_⟩
  · rintro rfl
    exact ⟨_, rfl, rfl⟩
  · have hne : images ≠ [] := by
      obtain ⟨b, hb, -⟩ := hshort
      exact List.ne_nil_of_mem hb
    rw [startUp_of_ne_nil hne, loadImages_of_short hshort]
    exact ⟨_, rfl, rfl⟩
  · obtain ⟨m', hload, hread, hwf⟩ := loadImages_ok hlen m
    rw [startUp_of_ne_nil hne, hload]
    exact ⟨m', rfl, rfl, hread, hwf⟩

end Sys2Proof.Machine
end

section
/-! The step of a ready core (10_state.md R24; 70_reset_and_hazards.md R274). -/

namespace Sys2Proof.Machine

/-- The fetch after the tick of the host's countdown, with the MemRead taken before it: a poll and the
tick do not touch each other. -/
theorem State.fetch_tickAbort (s : State) : s.tickAbort.fetch = { (s.memRead s.pc).2 with
    pc := s.pc + 1#16, ir := (s.memRead s.pc).1, abortIn := s.abortIn.map fun n => n - 1 } := by
  simp only [State.fetch, State.memRead, State.tickAbort_pc, State.readEffect_tickAbort]
  simp [State.tickAbort, State.rawRead]

/-- Settles O49: `step_of_ready` with the state of the fetch written out. -/
theorem stepRunsTheFetchedInstruction : Obligations.StepRunsTheFetchedInstruction := by
  unfold Obligations.StepRunsTheFetchedInstruction
  rintro s i hready - rfl
  rw [step_of_ready hready, State.fetch_tickAbort]

end Sys2Proof.Machine
end
